-- ==== Sys2Proof/Word.lean ====
section
/-! DEFINITION. The words of the block: a byte of a stream or of the pixel buffer, and a 16-bit geometry value
(00_scope.md R6, R9). All are unsigned. -/

namespace Sys2Proof

/-- A byte, an unsigned number 0 to 255, bit 7 most significant (00_scope.md R9). -/
abbrev Byte := BitVec 8

/-- A geometry value, an unsigned number 0 to 65535 (00_scope.md R6). -/
abbrev Half := BitVec 16

end Sys2Proof
end

