-- ==== Sys2Proof/Config.lean ====
section
/-! DEFINITION. What an implementation of the block fixes (00_scope.md R7), and the free values of the model: constants
without a body, of which nothing can be proved but what holds of every value. -/

namespace Sys2Proof

/-- The values of the result field `CAUSE` (10_state.md R28, 60_exceptions.md R211); 3 is never taken. -/
inductive Cause where
  /-- No failure (code 0). -/
  | none
  /-- The source ended where a token's first byte was due (code 1, `EOF_TOKEN`). -/
  | eofToken
  /-- The source ended after a marker byte (code 2, `EOF_VALUE`). -/
  | eofValue
  deriving DecidableEq, Repr, Inhabited

namespace Config

/-- `LIT_MAX`: the largest byte that is a literal token by itself (00_scope.md R7, 90_conflicts.md C1). -/
def litMax : Nat := 192

/-- `MAX_CHUNK`: the longest run one `RUN` token carries (00_scope.md R7, 90_conflicts.md C3). -/
def maxChunk : Nat := 63

/-- `PadByte(row, col)`: the byte ENC sees at a padding column (41_encoder.md R143, 92_eei_decisions.md D9; log 3). -/
opaque padByte : Nat → Nat → Byte

/-- `OK` from the acceptance of a `START`, or a reset, until it is written: unspecified (10_state.md R29, R35, R38; log 2). -/
opaque freeOk : Nat → Bool

/-- `CAUSE` in the same time: unspecified (log 2). -/
opaque freeCause : Nat → Cause

/-- `COUNT` in the same time: unspecified (log 2). -/
opaque freeCount : Nat → Nat

/-- A 16-bit register after a reset the host issues, by draw and register: unspecified (10_state.md R35; log 11). -/
opaque freeHalf : Nat → Nat → Half

/-- A counter after a reset the host issues, by draw and register: unspecified (10_state.md R35; log 11). -/
opaque freeCounter : Nat → Nat → Nat

/-- A byte register after a reset the host issues, by draw and register: unspecified (10_state.md R35; log 11). -/
opaque freeByte : Nat → Nat → Byte

/-- The register `n` after a reset the host issues, by draw: unspecified (10_state.md R35; log 11). -/
opaque freeLength : Nat → BitVec 6

end Config

end Sys2Proof
end

