-- ==== Sys2Proof/Syntax.lean ====
section
/-! DEFINITION. The instructions: one constructor per row of spec/opcode_table.json. The four rows of `LIT` differ
in the range of the whole-byte field `v` (30_encoding.md R81, R86, R93); `RUN` carries a length and a value (R82);
`DECODE` and `ENCODE` are the two operands of the `START` command (R90). -/

namespace Sys2Proof

/-- A row of the opcode table, with its operands. Which operand values a row admits is `WellFormed`. -/
inductive Instr where
  /-- `LIT v`, first byte 0x00 to 0x3F (row `00vvvvvv`). -/
  | litLow (v : Byte)
  /-- `LIT v`, first byte 0x40 to 0x7F (row `01vvvvvv`). -/
  | litMid (v : Byte)
  /-- `LIT v`, first byte 0x80 to 0xBF (row `10vvvvvv`). -/
  | litHigh (v : Byte)
  /-- `LIT 0xC0`, the literal 192 (row `11000000`). -/
  | litC0
  /-- `RUN n, v`, marker byte then value byte (row `11nnnnnnvvvvvvvv`, `n` not 0). -/
  | run (n : BitVec 6) (v : Byte)
  /-- `DECODE`, `START` with operand 0. -/
  | decode
  /-- `ENCODE`, `START` with operand 1. -/
  | encode
  deriving DecidableEq, Repr

/-- A token of the stream, as against a block operation (30_encoding.md, first paragraph). -/
def Instr.isToken : Instr → Bool
  | .litLow _ => true
  | .litMid _ => true
  | .litHigh _ => true
  | .litC0 => true
  | .run _ _ => true
  | .decode => false
  | .encode => false

end Sys2Proof
end

