-- ==== Sys2Proof/Machine/State.lean ====
section
/-! DEFINITION. The state of the block and of the host's objects behind its ports, the reasons a step can stop, and the state
after reset (10_state.md R20 to R38; 20_memory.md R50, R56, R59). -/

namespace Sys2Proof.Machine

/-- The values of `STATE` (10_state.md R28, R30); 3 is never taken. -/
inductive Phase where
  /-- `IDLE` (code 0). -/
  | idle
  /-- `BUSY_DEC` (code 1). -/
  | busyDec
  /-- `BUSY_ENC` (code 2). -/
  | busyEnc
  deriving DecidableEq, Repr

/-- The three ports (10_state.md R33). -/
inductive Port where
  /-- The byte source, `SrcRead`. -/
  | source
  /-- The byte sink, `SinkWrite`. -/
  | sink
  /-- The pixel buffer, `MemRead` and `MemWrite`. -/
  | buffer
  deriving DecidableEq, Repr

/-- One move of the host, or of the environment, between two steps of the block (log 5). -/
inductive HostMove where
  /-- Write `WIDTH` (10_state.md R28). -/
  | setWidth (w : Half)
  /-- Write `HEIGHT` (10_state.md R28). -/
  | setHeight (h : Half)
  /-- Write `BPL` (10_state.md R28). -/
  | setBpl (l : Half)
  /-- Issue `START(op)` (10_state.md R28, 30_encoding.md R90). -/
  | start (op : BitVec 1)
  /-- Put a buffer of so many bytes behind `PIX`, nothing in it written (70_reset_and_hazards.md R233 (3)). -/
  | giveBuffer (size : Nat)
  /-- Write a byte of `PIX` (70_reset_and_hazards.md R233 (3)). -/
  | writePix (a : Nat) (v : Byte)
  /-- Put a byte source with these bytes, at this position (70_reset_and_hazards.md R233 (4), 20_memory.md R56). -/
  | giveSource (bytes : List Byte) (pos : Nat)
  /-- Put a byte sink that holds these bytes already (70_reset_and_hazards.md R233 (4), 10_state.md R25). -/
  | giveSink (bytes : List Byte)
  /-- Wire the three ports disjoint, or not (20_memory.md R63). -/
  | wirePorts (separate : Bool)
  /-- Reset the block (70_reset_and_hazards.md R230, R232). -/
  | reset
  /-- A port call has not been answered yet: the block holds for this one step (20_memory.md R57). -/
  | hold
  /-- From here on a port answers its calls, or does not (20_memory.md R57, 70_reset_and_hazards.md R246; log 20). -/
  | portAnswers (p : Port) (yes : Bool)
  /-- No move of the host: the block advances. -/
  | tick
  deriving DecidableEq, Repr

/-- The state. The names are the spec's; `ok`, `count`, `cause`, `stat` are `OK`, `COUNT`, `CAUSE`, `STATE`. -/
structure State where
  /-- `WIDTH` (10_state.md R28). -/
  width : Half
  /-- `HEIGHT` (10_state.md R28). -/
  height : Half
  /-- `BPL` (10_state.md R28). -/
  bpl : Half
  /-- Whether the host wrote `WIDTH` since reset (70_reset_and_hazards.md R247, `Configured`). -/
  widthSet : Bool
  /-- Whether the host wrote `HEIGHT` since reset. -/
  heightSet : Bool
  /-- Whether the host wrote `BPL` since reset. -/
  bplSet : Bool
  /-- The latched `WIDTH` (10_state.md R21). -/
  W : Half
  /-- The latched `HEIGHT` (10_state.md R21). -/
  H : Half
  /-- The latched `BPL` (10_state.md R21). -/
  L : Half
  /-- Index of the line or row in hand (10_state.md R22, R23, R37). -/
  row : Nat
  /-- Column counter (10_state.md R22, R23, R37). -/
  col : Nat
  /-- Output cursor of DEC (10_state.md R22). -/
  wp : Nat
  /-- First byte of the token being executed (10_state.md R22). -/
  b : Byte
  /-- Run length of the token being executed (10_state.md R22). -/
  n : BitVec 6
  /-- Value of the token being executed (10_state.md R22). -/
  v : Byte
  /-- Value of the run ENC collects (10_state.md R23). -/
  rv : Byte
  /-- Length of the run ENC collects (10_state.md R23). -/
  rl : Nat
  /-- Bytes ENC handed to the sink in this operation (10_state.md R23). -/
  cnt : Nat
  /-- The byte ENC just fetched (10_state.md R23). -/
  p : Byte
  /-- `STATE` (10_state.md R28). -/
  stat : Phase
  /-- `OK` (10_state.md R26). -/
  ok : Bool
  /-- `COUNT` (10_state.md R27). -/
  count : Nat
  /-- `CAUSE` (60_exceptions.md R211). -/
  cause : Cause
  /-- The bytes of `PIX` that were written, by index, rising (20_memory.md R50). -/
  pix : List Host.Cell
  /-- The number of bytes of the buffer behind `PIX` (70_reset_and_hazards.md R235). -/
  pixSize : Nat
  /-- The bytes of the source (20_memory.md R56). -/
  src : List Byte
  /-- The read position of the source (10_state.md R24). -/
  srcPos : Nat
  /-- The bytes of the sink (20_memory.md R59). -/
  snk : List Byte
  /-- Whether `PIX`, the source and the sink are disjoint (20_memory.md R63). -/
  disjoint : Bool
  /-- Whether the source answers a `SrcRead` (20_memory.md R57; log 20). -/
  srcAnswers : Bool
  /-- Whether the sink answers a `SinkWrite` (20_memory.md R57; log 20). -/
  snkAnswers : Bool
  /-- Whether the buffer answers a `MemRead` or `MemWrite` (20_memory.md R57; log 20). -/
  pixAnswers : Bool
  /-- The host's coming moves, oldest first; the model's own field (log 5). -/
  inbox : List HostMove
  /-- How many times free values were drawn; the model's own field (log 2, log 11). -/
  draws : Nat
  deriving DecidableEq, Repr

/-- Why a step ends in a fault. -/
inductive Fault where
  /-- Raised by `memWrite` and `memRead` on an index outside the buffer (60_exceptions.md R222 (b); log 15). Safe: the block
  goes on into memory that is not the buffer's; no run from an accepted `START` gets here. -/
  | pixIndexOutside
  /-- Raised by `memRead` on a byte nothing has written (20_memory.md R52; log 4). Safe: the hardware reads some byte; no run
  from an accepted `START` gets here. -/
  | pixByteUnwritten
  deriving DecidableEq, Repr

/-- Why a step is refused. -/
inductive Refusal where
  /-- Raised by an arm of `exec` for an instruction that has no meaning yet; no arm does. Safe. -/
  | notModelled (mnemonic : String)
  /-- Raised by `DECODE` and `ENCODE`: a configuration field was not written since reset (60_exceptions.md R222 (e)). Safe. -/
  | launchNotConfigured
  /-- Raised by `DECODE` and `ENCODE`: the buffer has fewer than `W * H` bytes (R222 (b)). Safe. -/
  | launchBufferTooSmall
  /-- Raised by `DECODE` and `ENCODE`: the ports alias each other (R222 (c)). Safe. -/
  | launchPortsAliased
  /-- Raised by `ENCODE`: a byte of the picture was never written (R222 (a)). Safe. -/
  | launchInputUnwritten
  /-- Raised by a host move on the configuration, `PIX` or a stream while the block is busy (R222 (d)). Safe. -/
  | hostMoveWhileBusy
  /-- Raised by a host write outside the buffer it gave (60_exceptions.md R222 (b); log 15). Safe. -/
  | hostWriteOutsideBuffer
  deriving DecidableEq, Repr

/-- The three outcomes of one step of this machine. -/
abbrev Out := Host.Outcome State Fault Refusal

/-- The state after reset: `STATE` is `IDLE` (10_state.md R35, 70_reset_and_hazards.md R230). Every other field is unspecified
there and holds the value log 1 names; the host's objects are the initial ones log 17 names. -/
def State.reset : State where
  width := 0#16
  height := 0#16
  bpl := 0#16
  widthSet := false
  heightSet := false
  bplSet := false
  W := 0#16
  H := 0#16
  L := 0#16
  row := 0
  col := 0
  wp := 0
  b := 0#8
  n := 0#6
  v := 0#8
  rv := 0#8
  rl := 0
  cnt := 0
  p := 0#8
  stat := .idle
  ok := false
  count := 0
  cause := .none
  pix := []
  pixSize := 0
  src := []
  srcPos := 0
  snk := []
  disjoint := true
  srcAnswers := true
  snkAnswers := true
  pixAnswers := true
  inbox := []
  draws := 0

end Sys2Proof.Machine
end

