-- ==== Sys2Proof/Machine/Flags.lean ====
section
/-! DEFINITION. The result fields `OK`, `CAUSE`, `COUNT`: the block's only flag and what goes with it (10_state.md R26 to R29).
No token and no arithmetic sets a condition code. -/

namespace Sys2Proof.Machine

/-- Write the three result fields. -/
def setResults (ok : Bool) (cause : Cause) (count : Nat) (s : State) : State :=
  { s with ok := ok, cause := cause, count := count }

/-- The result fields become unspecified: free values, one draw (10_state.md R29, R38; log 2). -/
def freeResults (s : State) : State :=
  { s with
    ok := Config.freeOk s.draws
    cause := Config.freeCause s.draws
    count := Config.freeCount s.draws
    draws := s.draws + 1 }

/-- The code of `STATE` (10_state.md R28). -/
def Phase.code : Phase → BitVec 2
  | .idle => 0#2
  | .busyDec => 1#2
  | .busyEnc => 2#2

/-- The code of `CAUSE` (10_state.md R28, 60_exceptions.md R211). -/
def causeCode : Cause → BitVec 2
  | .none => 0#2
  | .eofToken => 1#2
  | .eofValue => 2#2

end Sys2Proof.Machine
end

