-- ==== Sys2Proof/Machine/Ops.lean ====
section
/-! DEFINITION. The named operations on the ports (00_scope.md R10), the one exception's entry (60_exceptions.md R216), the two
ways an operation ends, and reset. -/

namespace Sys2Proof.Machine

/-- Go on with the next state, if there is one. -/
def andThen (o : Out) (k : State → Out) : Out :=
  match o with
  | .next s => k s
  | .fault f => .fault f
  | .refused r => .refused r

/-! ## The pixel buffer -/

/-- The bytes of `PIX` that hold a value, by index. -/
abbrev Memory := List Host.Cell

/-- What an index that is not listed reads as: no value, nothing has written it (20_memory.md R52; log 4). -/
def Memory.unlisted : Option Byte := none

/-- The byte at an index. -/
def Memory.read : Memory → Nat → Option Byte
  | [], _ => Memory.unlisted
  | (k, v) :: m, a => if k = a then some v else Memory.read m a

/-- The memory with a byte stored, in rising order. -/
def Memory.write : Memory → Nat → Byte → Memory
  | [], a, v => [(a, v)]
  | (k, w) :: m, a, v =>
    if a < k then (a, v) :: (k, w) :: m
    else if a = k then (a, v) :: m
    else (k, w) :: Memory.write m a v

/-- The canonical form: indices strictly rising. (No entry can equal what an unlisted index reads as: that is no value.) -/
abbrev Memory.wf (m : Memory) : Prop := m.Pairwise fun x y => x.1 < y.1

/-- Every listed index lies inside a buffer of so many bytes. -/
abbrev Memory.inside (m : Memory) (size : Nat) : Prop := ∀ x ∈ m, x.1 < size

/-- `MemWrite(PIX, a, 1, v)` (00_scope.md R10, 20_memory.md R50). An index outside the buffer does not exist (log 15). -/
def memWrite (a : Nat) (v : Byte) (s : State) : Out :=
  if a < s.pixSize then .next { s with pix := Memory.write s.pix a v } else .fault .pixIndexOutside

/-- What `MemRead` finds. -/
inductive ReadByte where
  /-- The byte. -/
  | byte (v : Byte)
  /-- No byte: the step stops. -/
  | stop (f : Fault)
  deriving DecidableEq, Repr

/-- `MemRead(PIX, a, 1)` (00_scope.md R10, 20_memory.md R52, R55). -/
def memRead (a : Nat) (s : State) : ReadByte :=
  if a < s.pixSize then
    match Memory.read s.pix a with
    | some v => .byte v
    | none => .stop .pixByteUnwritten
  else .stop .pixIndexOutside

/-! ## The streams -/

/-- The bytes the source still holds. -/
def State.remaining (s : State) : List Byte := s.src.drop s.srcPos

/-- The byte `SrcRead` answers, or none for `EOF` (20_memory.md R56). -/
def srcByte (s : State) : Option Byte := s.src[s.srcPos]?

/-- The source after a `SrcRead` that returned a byte: the position moves by one (10_state.md R24, 20_memory.md R56). -/
def srcAdvance (s : State) : State := { s with srcPos := s.srcPos + 1 }

/-- `SinkWrite(v)` (20_memory.md R59). -/
def sinkWrite (v : Byte) (s : State) : State := { s with snk := s.snk ++ [v] }

/-! ## The end of an operation -/

/-- `raise SourceExhausted(where)`: `OK <- 0`, `CAUSE`, `COUNT <- 0`, then `STATE <- IDLE`, and nothing else
(60_exceptions.md R216, 40_decoder.md R119). There is no handler, so no return from it (R218). -/
def raiseSourceExhausted (c : Cause) (s : State) : State :=
  { setResults false c 0 s with stat := .idle }

/-- The success of DECODE (40_decoder.md R118). -/
def finishDecode (s : State) : State := { setResults true .none 0 s with stat := .idle }

/-- The end of ENCODE (41_encoder.md R150). -/
def finishEncode (s : State) : State := { setResults true .none s.cnt s with stat := .idle }

/-! ## Reset -/

/-- A reset the host issues: `STATE <- IDLE`; every other field of the block holds no defined value, and so a free one; nothing
of the host's is touched (70_reset_and_hazards.md R230, R232; 10_state.md R35; log 11). -/
def resetBlock (s : State) : State :=
  { freeResults s with
    stat := .idle
    width := Config.freeHalf s.draws 0
    height := Config.freeHalf s.draws 1
    bpl := Config.freeHalf s.draws 2
    widthSet := false
    heightSet := false
    bplSet := false
    W := Config.freeHalf s.draws 3
    H := Config.freeHalf s.draws 4
    L := Config.freeHalf s.draws 5
    row := Config.freeCounter s.draws 0
    col := Config.freeCounter s.draws 1
    wp := Config.freeCounter s.draws 2
    rl := Config.freeCounter s.draws 3
    cnt := Config.freeCounter s.draws 4
    b := Config.freeByte s.draws 0
    v := Config.freeByte s.draws 1
    rv := Config.freeByte s.draws 2
    p := Config.freeByte s.draws 3
    n := Config.freeLength s.draws }

end Sys2Proof.Machine
end

