-- ==== Sys2Proof/Machine/Operands.lean ====
section
/-! DEFINITION. Where operands come from and where results go: the write rule of DEC (40_decoder.md R116) and the input byte of
ENC (41_encoder.md R143). -/

namespace Sys2Proof.Machine

/-- One repetition of the write rule: the byte is written at the cursor if the column lies below `W`, and the column moves
either way (40_decoder.md R116). -/
def writeOnce (v : Byte) (s : State) : Out :=
  if s.col < s.W.toNat then
    andThen (memWrite s.wp v s) fun t => .next { t with wp := t.wp + 1, col := t.col + 1 }
  else .next { s with col := s.col + 1 }

/-- `repeat n times` of the write rule (40_decoder.md R116). The end of the line is not tested inside (R117). -/
def writeRule (v : Byte) : Nat → State → Out
  | 0, s => .next s
  | k + 1, s => andThen (writeOnce v s) (writeRule v k)

/-- How many of `n` repetitions that start at a column lie below `W` and so are written (40_decoder.md R124). -/
def writtenCount (n W col : Nat) : Nat := min n (W - col)

/-- The index of a pixel in `PIX`: rows stand at a distance of `W` (41_encoder.md R143). -/
def pixIndex (s : State) : Nat := s.row * s.W.toNat + s.col

/-- `InByte(row, col)`: a pixel byte, or the pad byte of a padding column (41_encoder.md R143). -/
def inByte (s : State) : ReadByte :=
  if s.col < s.W.toNat then memRead (pixIndex s) s else .byte (Config.padByte s.row s.col)

end Sys2Proof.Machine
end

