-- ==== Sys2Proof/Machine/Operations.lean ====
section
/-! DEFINITION. The meanings of the block operations `DECODE` and `ENCODE`: the acceptance of a `START` (10_state.md R21, R30,
R31, R38; 40_decoder.md R111; 41_encoder.md R141) and its premises (70_reset_and_hazards.md R247, 60_exceptions.md R222). The
rest of an operation runs step by step in the sequencer (92_eei_decisions.md D21; log 9). -/

namespace Sys2Proof.Machine

/-! ## The premises of a launch -/

/-- `Configured`: all three fields were written since reset. -/
def configured (s : State) : Bool := s.widthSet && s.heightSet && s.bplSet

/-- The number of bytes of the picture a `START` would latch. -/
def launchArea (s : State) : Nat := s.width.toNat * s.height.toNat

/-- `BufferFits`: `PIX` has at least `W * H` bytes. -/
def bufferFits (s : State) : Bool := decide (launchArea s ≤ s.pixSize)

/-- Every index below a bound holds a value. -/
def writtenBelow (m : Memory) (bound : Nat) : Bool := (List.range bound).all fun a => (Memory.read m a).isSome

/-- `InputWritten`: all `W * H` bytes of `PIX` hold a value. -/
def inputWritten (s : State) : Bool := writtenBelow s.pix (launchArea s)

/-- The premise of a launch that fails, the first in the order configured, buffer, ports (log 22). -/
def launchProblem (s : State) : Option Refusal :=
  if configured s = false then some .launchNotConfigured
  else if bufferFits s = false then some .launchBufferTooSmall
  else if s.disjoint = false then some .launchPortsAliased
  else none

/-- The premise of an ENCODE launch that fails: the common ones, then the input. -/
def encodeLaunchProblem (s : State) : Option Refusal :=
  match launchProblem s with
  | some r => some r
  | none => if inputWritten s = false then some .launchInputUnwritten else none

/-! ## Acceptance -/

/-- `W`, `H`, `L` take the configuration's values (10_state.md R21). -/
def latchGeometry (s : State) : State := { s with W := s.width, H := s.height, L := s.bpl }

/-- An accepted `START(op=0)`: latch, `wp <- 0`, `row <- 0`, and `col <- 0` for line 0 (40_decoder.md R110 to R112; log 9);
the results become unspecified (10_state.md R38). -/
def startDecode (s : State) : State :=
  { freeResults (latchGeometry s) with stat := .busyDec, wp := 0, row := 0, col := 0 }

/-- An accepted `START(op=1)`: latch, `cnt <- 0`, `row <- 0`, and column 0 of row 0 is next (41_encoder.md R140, R141; log 9);
the results become unspecified (10_state.md R38). -/
def startEncode (s : State) : State :=
  { freeResults (latchGeometry s) with stat := .busyEnc, cnt := 0, row := 0, col := 0 }

/-- `DECODE`. While the block is busy the `START` is not accepted and changes nothing (10_state.md R31; log 6); a launch
without its premises is refused (60_exceptions.md R222; log 7). -/
def execDecode (s : State) : Out :=
  if s.stat = .idle then
    match launchProblem s with
    | some r => .refused r
    | none => .next (startDecode s)
  else .next s

/-- `ENCODE`; as `DECODE`, with the input premise too. -/
def execEncode (s : State) : Out :=
  if s.stat = .idle then
    match encodeLaunchProblem s with
    | some r => .refused r
    | none => .next (startEncode s)
  else .next s

end Sys2Proof.Machine
end

