-- ==== Sys2Proof/Machine/Tokens.lean ====
section
/-! DEFINITION. The meanings of the stream tokens `LIT` and `RUN` as DEC executes them once their bytes are read
(40_decoder.md R114 to R117). DEC executes them while `row < H` and `col < L` only; the sequencer sees to that (log 16). -/

namespace Sys2Proof.Machine

/-- The registers `n` and `v` of the token being executed (10_state.md R22). -/
def setToken (n : BitVec 6) (v : Byte) (s : State) : State := { s with n := n, v := v }

/-- `n <- 1`, `v <- b`, then the write rule once (40_decoder.md R114). -/
def execLiteral (v : Byte) (s : State) : Out := writeRule v 1 (setToken 1#6 v s)

/-- `LIT` 0x00 to 0x3F (40_decoder.md R114). -/
def execLitLow (v : Byte) (s : State) : Out := execLiteral v s

/-- `LIT` 0x40 to 0x7F (40_decoder.md R114). -/
def execLitMid (v : Byte) (s : State) : Out := execLiteral v s

/-- `LIT` 0x80 to 0xBF (40_decoder.md R114). -/
def execLitHigh (v : Byte) (s : State) : Out := execLiteral v s

/-- `LIT 0xC0`: the literal 192 (40_decoder.md R114, 90_conflicts.md C1). -/
def execLitC0 (s : State) : Out := execLiteral 0xC0#8 s

/-- `RUN n, v`: the write rule `n` times (40_decoder.md R115, R116). -/
def execRun (n : BitVec 6) (v : Byte) (s : State) : Out := writeRule v n.toNat (setToken n v s)

end Sys2Proof.Machine
end

