-- ==== Sys2Proof/Machine/Dispatch.lean ====
section
/-! DEFINITION. One arm per constructor of Instr. -/

namespace Sys2Proof.Machine

def exec (i : Instr) (s : State) : Host.Outcome State Fault Refusal :=
  match i with
  | .litLow v => Sys2Proof.Machine.execLitLow v s
  | .litMid v => Sys2Proof.Machine.execLitMid v s
  | .litHigh v => Sys2Proof.Machine.execLitHigh v s
  | .litC0 => Sys2Proof.Machine.execLitC0 s
  | .run n v => Sys2Proof.Machine.execRun n v s
  | .decode => Sys2Proof.Machine.execDecode s
  | .encode => Sys2Proof.Machine.execEncode s

end Sys2Proof.Machine
end

