-- ==== Sys2Proof/WellFormed.lean ====
section
/-! DEFINITION. The operand values each row of the opcode table admits (30_encoding.md R81, R82, R86, R91). -/

namespace Sys2Proof

/-- The operands of the instruction lie in the ranges of its row. -/
def Instr.wellFormed : Instr → Bool
  | .litLow v => decide (v.toNat ≤ 0x3F)
  | .litMid v => decide (0x40 ≤ v.toNat ∧ v.toNat ≤ 0x7F)
  | .litHigh v => decide (0x80 ≤ v.toNat ∧ v.toNat ≤ 0xBF)
  | .litC0 => true
  | .run n _ => decide (n ≠ 0)
  | .decode => true
  | .encode => true

/-- The instruction is one the opcode table has. -/
abbrev WellFormed (i : Instr) : Prop := i.wellFormed = true

end Sys2Proof
end

