-- ==== Sys2Proof/Decode.lean ====
section
/-! DEFINITION. The decoder of the stream and of the `START` operand, total on any bytes, and after it the encoder
(30_encoding.md R80 to R94). -/

namespace Sys2Proof

/-! ## Fields -/

/-- The marker test: the numeric comparison `b > 192` (30_encoding.md R80, 90_conflicts.md C1). It departs on the byte 0xC0 from
a decoder that tests the top two bits: 0xC0 is no marker here (R95). -/
def isMarker (b : Byte) : Bool := decide (Config.litMax < b.toNat)

/-- The run length of a marker byte, `b & 0x3F` (30_encoding.md R83). -/
def runLength (b : Byte) : BitVec 6 := (b &&& 0x3F#8).setWidth 6

/-- The marker byte of a chunk, `0xC0 | n` (30_encoding.md R84). -/
def markerByte (n : BitVec 6) : Byte := 0xC0#8 ||| n.setWidth 8

/-- The row of `LIT` a byte up to 192 belongs to, in the order of the table (30_encoding.md R86); 0xC0 is the literal
192 (R95). -/
def literalOf (b : Byte) : Instr :=
  if b.toNat ≤ 0x3F then .litLow b
  else if b.toNat ≤ 0x7F then .litMid b
  else if b.toNat ≤ 0xBF then .litHigh b
  else .litC0

/-! ## Decoding -/

/-- What the decoder finds at the front of a list of bytes. -/
inductive Decoded where
  /-- A token, and the bytes after it. -/
  | token (i : Instr) (rest : List Byte)
  /-- Nothing where a token's first byte is due. -/
  | eofToken
  /-- Nothing where a value byte is due, after a marker byte. -/
  | eofValue
  deriving DecidableEq, Repr

/-- The token at the front of a stream (30_encoding.md R85 to R87, R94). No byte is illegal; the one way to fail is that the
bytes end too early. -/
def decodeToken : List Byte → Decoded
  | [] => .eofToken
  | b :: rest =>
    if isMarker b then
      match rest with
      | [] => .eofValue
      | v :: rest' => .token (.run (runLength b) v) rest'
    else .token (literalOf b) rest

/-- The operation a `START` operand selects (30_encoding.md R90). -/
def decodeCommand (op : BitVec 1) : Instr := if op = 0#1 then .decode else .encode

/-- The words of an instruction: stream bytes for a token, the operand of `START` for a block operation. -/
inductive Code where
  /-- Bytes of the stream, in stream order. -/
  | stream (bytes : List Byte)
  /-- The one-bit operand of `START`. -/
  | command (op : BitVec 1)
  deriving DecidableEq, Repr

/-- The decoder over both kinds of words. -/
def decode : Code → Decoded
  | .stream bytes => decodeToken bytes
  | .command op => .token (decodeCommand op) []

/-! ## Encoding -/

/-- The stream bytes of a token (30_encoding.md R81, R82, R84); a block operation has none. -/
def encodeToken : Instr → List Byte
  | .litLow v => [v]
  | .litMid v => [v]
  | .litHigh v => [v]
  | .litC0 => [0xC0#8]
  | .run n v => [markerByte n, v]
  | .decode => []
  | .encode => []

/-- The words of an instruction (30_encoding.md R81, R82, R90). -/
def encode : Instr → Code
  | .decode => .command 0#1
  | .encode => .command 1#1
  | .litLow v => .stream (encodeToken (.litLow v))
  | .litMid v => .stream (encodeToken (.litMid v))
  | .litHigh v => .stream (encodeToken (.litHigh v))
  | .litC0 => .stream (encodeToken .litC0)
  | .run n v => .stream (encodeToken (.run n v))

/-- Stream words followed by more of the stream; a `START` operand has nothing after it. -/
def Code.followedBy (c : Code) (rest : List Byte) : Code :=
  match c with
  | .stream bytes => .stream (bytes ++ rest)
  | .command op => .command op

/-- How many source bytes a token takes (30_encoding.md R85). -/
def tokenLength : Instr → Nat
  | .litLow _ => 1
  | .litMid _ => 1
  | .litHigh _ => 1
  | .litC0 => 1
  | .run _ _ => 2
  | .decode => 0
  | .encode => 0

/-- How many decoded bytes a token stands for (30_encoding.md R81, R82). -/
def weight : Instr → Nat
  | .litLow _ => 1
  | .litMid _ => 1
  | .litHigh _ => 1
  | .litC0 => 1
  | .run n _ => n.toNat
  | .decode => 0
  | .encode => 0

/-- The value a token carries (30_encoding.md R81, R82). -/
def tokenValue : Instr → Byte
  | .litLow v => v
  | .litMid v => v
  | .litHigh v => v
  | .litC0 => 0xC0#8
  | .run _ v => v
  | .decode => 0#8
  | .encode => 0#8

/-! ## The opcode table as data -/

/-- A token row of spec/opcode_table.json: its match and mask over the first byte of the token. -/
structure OpcodeRow where
  /-- The bits under the mask. -/
  pattern : Byte
  /-- Which bits the pattern fixes. -/
  mask : Byte
  /-- Whether the row is `RUN`. -/
  isRun : Bool
  deriving DecidableEq, Repr

/-- The five token rows in their order of matching (30_encoding.md R86, R93). -/
def opcodeRows : List OpcodeRow :=
  [ ⟨0x00#8, 0xC0#8, false⟩, ⟨0x40#8, 0xC0#8, false⟩, ⟨0x80#8, 0xC0#8, false⟩,
    ⟨0xC0#8, 0xFF#8, false⟩, ⟨0xC0#8, 0xC0#8, true⟩ ]

/-- The place in the table of the first row that a first byte matches. -/
def firstRow (b : Byte) : Option Nat :=
  opcodeRows.findIdx? fun r => decide (b &&& r.mask = r.pattern)

/-- The place in the table of an instruction's row. -/
def rowOf : Instr → Nat
  | .litLow _ => 0
  | .litMid _ => 1
  | .litHigh _ => 2
  | .litC0 => 3
  | .run _ _ => 4
  | .decode => 5
  | .encode => 6

/-! ## The host's numbering of words -/

/-- The bytes, in stream order, of a word numbered as the table numbers it: a one-byte row is the first byte, a two-byte row has
the marker byte in bits 15 to 8 (30_encoding.md R93); the bits above are zero. So a one-byte word that is a marker, 0xC1 to 0xFF, is
followed by the value byte 0 and reads as `RUN n, 0`, where the byte alone would be a stream that ends too early (R87): the model's
choice (DESIGN CHOICE, log 14). -/
def tableBytes (nbits w : Nat) : List Byte :=
  if nbits ≤ 8 then [BitVec.ofNat 8 w, 0#8]
  else [BitVec.ofNat 8 (w / 256), BitVec.ofNat 8 w]

/-- Whether a word of the table is read as a `START` operand: the words 0 and 1 of at most a byte, whose numbers the table gives
to `LIT` as well (log 14). -/
def isCommandWord (nbits w : Nat) : Bool := decide (nbits ≤ 8 ∧ w ≤ 1)

/-- The instruction the decoder reads from a word numbered as the table numbers it (log 14). -/
def decodeTableWord (nbits w : Nat) : Option Instr :=
  if isCommandWord nbits w then some (decodeCommand (BitVec.ofNat 1 w))
  else
    match decodeToken (tableBytes nbits w) with
    | .token i _ => some i
    | .eofToken => none
    | .eofValue => none

end Sys2Proof
end

