-- ==== Sys2Proof/Machine/Encoder.lean ====
section
/-! DEFINITION. ENC while it runs: run detection (41_encoder.md R144), the emission of a run (R145 to R149, the
pseudo-instruction `EMIT` of 30_encoding.md R92), the end of a row and of the operation (R142, R150). -/

namespace Sys2Proof.Machine

/-! ## Emitting a run -/

/-- How many full chunks come before the last one (41_encoder.md R147). -/
def fullChunks (len : Nat) : Nat := (len - 1) / Config.maxChunk

/-- The length of the last chunk (41_encoder.md R147, R148). -/
def lastChunk (len : Nat) : Nat := len - Config.maxChunk * fullChunks len

/-- A run as `RUN` tokens: full chunks first, the remainder last (41_encoder.md R146 to R148). -/
def chunkTokens (v : Byte) (len : Nat) : List Instr :=
  List.replicate (fullChunks len) (.run (BitVec.ofNat 6 Config.maxChunk) v) ++ [.run (BitVec.ofNat 6 (lastChunk len)) v]

/-- `EMIT v, len`: one `LIT` for a run of length 1 and value up to 192, `RUN` tokens otherwise (41_encoder.md R145, R146;
30_encoding.md R92). A lone 192 is the byte 0xC0 (30_encoding.md R95). -/
def emitTokens (v : Byte) (len : Nat) : List Instr :=
  if len = 1 ∧ v.toNat ≤ Config.litMax then [literalOf v] else chunkTokens v len

/-- The bytes of `EMIT v, len`. -/
def emitBytes (v : Byte) (len : Nat) : List Byte := (emitTokens v len).flatMap encodeToken

/-- Hand one byte to the sink and count it (41_encoder.md R149). -/
def emitByte (s : State) (v : Byte) : State := { sinkWrite v s with cnt := s.cnt + 1 }

/-- `Flush(v, len)` (41_encoder.md R140). -/
def flush (v : Byte) (len : Nat) (s : State) : State := (emitBytes v len).foldl emitByte s

/-! ## One input byte -/

/-- The row's first byte opens a run of length 1 (41_encoder.md R144). -/
def openRow (x : Byte) (s : State) : State := { s with rv := x, rl := 1, col := 1 }

/-- A byte equal to the run's value lengthens it (41_encoder.md R144). -/
def extendRun (x : Byte) (s : State) : State := { s with p := x, rl := s.rl + 1, col := s.col + 1 }

/-- A byte that differs: the finished run is emitted and the byte opens a new one (41_encoder.md R144). -/
def breakRun (x : Byte) (s : State) : State :=
  { flush s.rv s.rl s with p := x, rv := x, rl := 1, col := s.col + 1 }

/-- ENC takes the byte at the row's next column. -/
def takeByte (x : Byte) (s : State) : State :=
  if s.col = 0 then openRow x s
  else if x = s.rv then extendRun x s
  else breakRun x s

/-- The row ended: the run in hand is emitted, unless the row is empty, and the next row begins (41_encoder.md R140, R142). -/
def endEncodeRow (s : State) : State :=
  if 0 < s.L.toNat then { flush s.rv s.rl s with row := s.row + 1, col := 0 }
  else { s with row := s.row + 1, col := 0 }

/-- The byte due ends the run in hand, so that taking it emits the run (41_encoder.md R144). -/
def byteBreaksRun (s : State) : Bool :=
  match inByte s with
  | .byte x => decide (0 < s.col ∧ x ≠ s.rv)
  | .stop _ => false

/-- The next step of ENC calls a port that does not answer: the buffer for a pixel byte, the sink for a run to emit
(20_memory.md R57; log 20). -/
def encodeWaits (s : State) : Bool :=
  decide (s.row < s.H.toNat) &&
    if s.col < s.L.toNat then
      (decide (s.col < s.W.toNat) && !s.pixAnswers) || (byteBreaksRun s && !s.snkAnswers)
    else decide (0 < s.L.toNat) && !s.snkAnswers

/-- One step of ENC: one input byte, one row end, or the end of the operation (41_encoder.md R140; log 9). -/
def encodeStep (s : State) : Out :=
  if s.row < s.H.toNat then
    if s.col < s.L.toNat then
      match inByte s with
      | .byte x => .next (takeByte x s)
      | .stop f => .fault f
    else .next (endEncodeRow s)
  else .next (finishEncode s)

end Sys2Proof.Machine
end

