-- ==== Sys2Proof/Machine/Fetch.lean ====
section
/-! DEFINITION. Token fetch (40_decoder.md R113, R115): one or two `SrcRead`s, in stream order, none more than the token needs. -/

namespace Sys2Proof.Machine

/-- What a token fetch comes to. -/
inductive Fetched where
  /-- A token, and the state after its bytes were read. -/
  | token (i : Instr) (s : State)
  /-- A `SrcRead` answered `EOF`: the cause, and the state then. -/
  | exhausted (c : Cause) (s : State)
  deriving DecidableEq, Repr

/-- The state after a token's first byte `b` was read. -/
def firstByteRead (b : Byte) (s : State) : State := { s with srcPos := s.srcPos + 1, b := b }

/-- The state after a marker byte `b` was read: `n <- b & 0x3F`, before the value is fetched (40_decoder.md R115). -/
def markerRead (b : Byte) (s : State) : State := { s with srcPos := s.srcPos + 1, b := b, n := runLength b }

/-- Read one token from the source (40_decoder.md R110, R113, R115). On `EOF` the register the answer was due in, `b` or `v`, keeps
its old value: `EOF` is no byte (DESIGN CHOICE, log 16). -/
def fetchToken (s : State) : Fetched :=
  match srcByte s with
  | none => .exhausted .eofToken s
  | some b =>
    if isMarker b then
      match srcByte (markerRead b s) with
      | none => .exhausted .eofValue (markerRead b s)
      | some v => .token (.run (runLength b) v) (srcAdvance (markerRead b s))
    else .token (literalOf b) (firstByteRead b s)

end Sys2Proof.Machine
end

