-- ==== Sys2Proof/Machine/HostPort.lean ====
section
/-! DEFINITION. The host's side: its moves other than `START` (10_state.md R28, R29, R36; 70_reset_and_hazards.md R230 to R233)
and what it can read (10_state.md R28). -/

namespace Sys2Proof.Machine

/-- A move the host may make in `IDLE` only; while the block is busy it has no meaning (20_memory.md R66, 60_exceptions.md
R222 (d); log 8). -/
def whenIdle (s : State) (o : Out) : Out := if s.stat = .idle then o else .refused .hostMoveWhileBusy

/-- Write `WIDTH` (10_state.md R28, R29). -/
def hostSetWidth (w : Half) (s : State) : Out := whenIdle s (.next { s with width := w, widthSet := true })

/-- Write `HEIGHT` (10_state.md R28, R29). -/
def hostSetHeight (h : Half) (s : State) : Out := whenIdle s (.next { s with height := h, heightSet := true })

/-- Write `BPL` (10_state.md R28, R29). -/
def hostSetBpl (l : Half) (s : State) : Out := whenIdle s (.next { s with bpl := l, bplSet := true })

/-- A new buffer behind `PIX` (20_memory.md R50, 10_state.md R36). -/
def hostGiveBuffer (size : Nat) (s : State) : Out := whenIdle s (.next { s with pix := [], pixSize := size })

/-- A byte of the buffer (70_reset_and_hazards.md R233 (3)). -/
def hostWritePix (a : Nat) (v : Byte) (s : State) : Out :=
  whenIdle s
    (if a < s.pixSize then .next { s with pix := Memory.write s.pix a v } else .refused .hostWriteOutsideBuffer)

/-- A byte source at a position (70_reset_and_hazards.md R233 (4), R234). -/
def hostGiveSource (bytes : List Byte) (pos : Nat) (s : State) : Out :=
  whenIdle s (.next { s with src := bytes, srcPos := pos })

/-- A byte sink (70_reset_and_hazards.md R233 (4)). -/
def hostGiveSink (bytes : List Byte) (s : State) : Out := whenIdle s (.next { s with snk := bytes })

/-- The wiring of the ports (20_memory.md R63). -/
def hostWirePorts (separate : Bool) (s : State) : Out := whenIdle s (.next { s with disjoint := separate })

/-- A port begins to answer, or stops answering, at any time (20_memory.md R57; log 20). -/
def setPortAnswers (p : Port) (yes : Bool) (s : State) : State :=
  match p with
  | .source => { s with srcAnswers := yes }
  | .sink => { s with snkAnswers := yes }
  | .buffer => { s with pixAnswers := yes }

/-- The fields the host can read (10_state.md R28); the working registers and the latched geometry are internal (R22, R23). -/
inductive Field where
  /-- `WIDTH` -/
  | width
  /-- `HEIGHT` -/
  | height
  /-- `BPL` -/
  | bpl
  /-- `STATE` -/
  | stat
  /-- `OK` -/
  | ok
  /-- `COUNT` -/
  | count
  /-- `CAUSE` -/
  | cause
  deriving DecidableEq, Repr

/-- What the host reads in a field; a read changes nothing (10_state.md R28, R29; log 21). -/
def hostRead (f : Field) (s : State) : Nat :=
  match f with
  | .width => s.width.toNat
  | .height => s.height.toNat
  | .bpl => s.bpl.toNat
  | .stat => s.stat.code.toNat
  | .ok => if s.ok then 1 else 0
  | .count => s.count
  | .cause => (causeCode s.cause).toNat

end Sys2Proof.Machine
end

