-- ==== Sys2Proof/Machine/Sequencer.lean ====
section
/-! DEFINITION. What one step does: a move of the host, or an advance of the block (10_state.md R30; 40_decoder.md R110;
41_encoder.md R140). -/

namespace Sys2Proof.Machine

/-- The line is full: the next line begins with a fresh token (40_decoder.md R112, R117). -/
def endDecodeLine (s : State) : State := { s with row := s.row + 1, col := 0 }

/-- One step of DEC: one token, one line end, or the end of the operation (40_decoder.md R110; log 9). Line and frame completion
are tested before a fetch (60_exceptions.md R215). -/
def decodeStep (s : State) : Out :=
  if s.row < s.H.toNat then
    if s.col < s.L.toNat then
      match fetchToken s with
      | .token i t => exec i t
      | .exhausted c t => .next (raiseSourceExhausted c t)
    else .next (endDecodeLine s)
  else .next (finishDecode s)

/-- The source holds a complete token. -/
def holdsToken (s : State) : Bool :=
  match fetchToken s with
  | .token _ _ => true
  | .exhausted _ _ => false

/-- The next step of DEC calls a port that does not answer: the source for a fetch, the buffer for a token's first write
(20_memory.md R57; log 20). -/
def decodeWaits (s : State) : Bool :=
  decide (s.row < s.H.toNat ∧ s.col < s.L.toNat) &&
    (!s.srcAnswers || (decide (s.col < s.W.toNat) && holdsToken s && !s.pixAnswers))

/-- The block holds on a port (20_memory.md R57). In `IDLE` it calls none. -/
def waiting (s : State) : Bool :=
  match s.stat with
  | .idle => false
  | .busyDec => decodeWaits s
  | .busyEnc => encodeWaits s

/-- The block advances; in `IDLE` it waits (70_reset_and_hazards.md R231), and while a port it calls does not answer it holds, in the
same state, for as long as that lasts (20_memory.md R57, 70_reset_and_hazards.md R246). -/
def blockStep (s : State) : Out :=
  if waiting s = true then .next s
  else
    match s.stat with
    | .idle => .next s
    | .busyDec => decodeStep s
    | .busyEnc => encodeStep s

/-- One move of the host, or of the environment (log 5). A `START` runs the instruction its operand selects. -/
def hostStep (m : HostMove) (s : State) : Out :=
  match m with
  | .setWidth w => hostSetWidth w s
  | .setHeight h => hostSetHeight h s
  | .setBpl l => hostSetBpl l s
  | .start op => exec (decodeCommand op) s
  | .giveBuffer size => hostGiveBuffer size s
  | .writePix a v => hostWritePix a v s
  | .giveSource bytes pos => hostGiveSource bytes pos s
  | .giveSink bytes => hostGiveSink bytes s
  | .wirePorts separate => hostWirePorts separate s
  | .reset => .next (resetBlock s)
  | .hold => .next s
  | .portAnswers p yes => .next (setPortAnswers p yes s)
  | .tick => blockStep s

/-- The host's next move, if one is due; else the block advances. -/
def advance (s : State) : Out :=
  match s.inbox with
  | [] => blockStep s
  | m :: rest => hostStep m { s with inbox := rest }

/-- `s` with a `START` operand due next, in `IDLE` and configured, so that the next step runs it (log 14). -/
def placeCommand (op : BitVec 1) (s : State) : State :=
  { s with stat := .idle, widthSet := true, heightSet := true, bplSet := true, inbox := [.start op] }

/-- `s` with these bytes at the source's position and DEC inside a line, the ports it calls answering, so that the next
step runs their token (log 14). -/
def placeToken (bytes : List Byte) (s : State) : State :=
  { s with
    stat := .busyDec, H := 1#16, L := 1#16, row := 0, col := 0, src := bytes, srcPos := 0,
    srcAnswers := true, pixAnswers := true, inbox := [] }

/-- `s` with a word of the opcode table placed where the next step takes its instruction from (log 14). -/
def placeWord (nbits w : Nat) (s : State) : State :=
  if isCommandWord nbits w then placeCommand (BitVec.ofNat 1 w) s else placeToken (tableBytes nbits w) s

end Sys2Proof.Machine
end

