-- ==== Sys2Proof/Machine/ListModel.lean ====
section
/-! DEFINITION. DECODE and ENCODE as functions on lists, as the spec writes them beside the machine (40_decoder.md R124,
41_encoder.md R155), and the stream notions of 44_laws.md (R170). Independent of the machine: statements compare the two. -/

namespace Sys2Proof.ListModel

/-! ## The decoder (40_decoder.md R124) -/

/-- `tok(s)`: length, value and the rest. -/
def tok : List Byte → Option (Nat × Byte × List Byte)
  | [] => none
  | [b] => if b.toNat ≤ 192 then some (1, b, []) else none
  | b :: v :: rest =>
    if b.toNat ≤ 192 then some (1, b, v :: rest) else some ((b &&& 0x3F#8).toNat, v, rest)

/-- `line(W, L, col, s, out)`: the rest and the bytes written, or none if the source ends first. The argument order puts the
list first, on which it recurses; `tok` is unfolded in place. -/
def line (W L : Nat) : List Byte → Nat → List Byte → Option (List Byte × List Byte)
  | [], col, out => if L ≤ col then some ([], out) else none
  | b :: s, col, out =>
    if L ≤ col then some (b :: s, out)
    else if b.toNat ≤ 192 then line W L s (col + 1) (out ++ List.replicate (min 1 (W - col)) b)
    else
      match s with
      | [] => none
      | v :: s' =>
        line W L s' (col + (b &&& 0x3F#8).toNat) (out ++ List.replicate (min (b &&& 0x3F#8).toNat (W - col)) v)

/-- `frame(W, L, h, s, out)`. -/
def frame (W L : Nat) : Nat → List Byte → List Byte → Option (List Byte × List Byte)
  | 0, s, out => some (s, out)
  | h + 1, s, out =>
    match line W L s 0 out with
    | none => none
    | some (s', out') => frame W L h s' out'

/-- `Decode(W, H, L, s)`: what the source still holds and the bytes of `PIX` from index 0, or none on failure. -/
def decodeFrame (W H L : Nat) (s : List Byte) : Option (List Byte × List Byte) := frame W L H s []

/-! ## The encoder (41_encoder.md R155) -/

/-- `runs`: the maximal runs of a list, value and length. -/
def runs : List Byte → List (Byte × Nat)
  | [] => []
  | x :: xs =>
    match runs xs with
    | [] => [(x, 1)]
    | (v, k) :: t => if v = x then (x, k + 1) :: t else (x, 1) :: (v, k) :: t

/-- `emit'(v, len)`, the loop of 41_encoder.md R140; the first argument bounds the number of turns. -/
def emitLoop (v : Byte) : Nat → Nat → List Byte
  | 0, len => [0xC0#8 ||| BitVec.ofNat 8 len, v]
  | k + 1, len =>
    if 63 < len then 0xFF#8 :: v :: emitLoop v k (len - 63) else [0xC0#8 ||| BitVec.ofNat 8 len, v]

/-- `emit(v, len)`. -/
def emit (v : Byte) (len : Nat) : List Byte :=
  if len = 1 ∧ v.toNat ≤ 192 then [v] else emitLoop v len len

/-- `rowbytes(r)`: the list of `InByte(r, 0)` to `InByte(r, L - 1)`, for a pad byte and a picture (41_encoder.md R143). -/
def rowBytes (pad : Nat → Nat → Byte) (pic : Nat → Byte) (W L r : Nat) : List Byte :=
  (List.range L).map fun c => if c < W then pic (r * W + c) else pad r c

/-- `encRow(r)`. -/
def encRow (pad : Nat → Nat → Byte) (pic : Nat → Byte) (W L r : Nat) : List Byte :=
  (runs (rowBytes pad pic W L r)).flatMap fun x => emit x.1 x.2

/-- `Encode(W, H, L, PIX)`. -/
def encodeFrame (pad : Nat → Nat → Byte) (pic : Nat → Byte) (W H L : Nat) : List Byte :=
  (List.range H).flatMap (encRow pad pic W L)

/-- Neighbouring entries have different values. -/
def neighboursDiffer {α : Type} : List (Byte × α) → Prop
  | [] => True
  | [_] => True
  | x :: y :: rs => x.1 ≠ y.1 ∧ neighboursDiffer (y :: rs)

/-- The list is cut into maximal runs: they spell it, each has a byte, and neighbours differ (41_encoder.md R144). -/
def IsCut (xs : List Byte) (rs : List (Byte × Nat)) : Prop :=
  (rs.flatMap fun x => List.replicate x.2 x.1) = xs ∧ (∀ x ∈ rs, 1 ≤ x.2) ∧ neighboursDiffer rs

/-! ## Streams (44_laws.md) -/

/-- `expand` of a token list: the decoded bytes it stands for. -/
def expand (ts : List Instr) : List Byte := ts.flatMap fun t => List.replicate (weight t) (tokenValue t)

/-- The bytes of a token list. -/
def tokenBytes (ts : List Instr) : List Byte := ts.flatMap encodeToken

/-- Complete tokens whose weights add up to exactly `L` (44_laws.md R170). -/
def LineTokens (L : Nat) (ts : List Instr) : Prop :=
  (∀ t ∈ ts, t.isToken = true ∧ WellFormed t) ∧ (ts.map weight).sum = L

/-- The byte list is `H` groups of complete tokens, each of total weight `L` (44_laws.md R170); the witness is the tokens. -/
def LineExactBy (H L : Nat) (groups : List (List Instr)) (t : List Byte) : Prop :=
  groups.length = H ∧ (∀ g ∈ groups, LineTokens L g) ∧ t = groups.flatMap tokenBytes

/-- Line-exact for (`H`, `L`) (44_laws.md R170). -/
def LineExact (H L : Nat) (t : List Byte) : Prop := ∃ groups, LineExactBy H L groups t

/-- A block of a canonical group (44_laws.md R173 (c), (d)): a single `LIT v`, or full chunks and one last chunk, of value `v`,
where a single `RUN 1, v` has `v > 192`. -/
def CanonicalBlock (v : Byte) (ts : List Instr) : Prop :=
  (v.toNat ≤ 192 ∧ ts = [literalOf v]) ∨
    ∃ (k : Nat) (m : BitVec 6), m ≠ 0 ∧ ts = List.replicate k (.run 63#6 v) ++ [.run m v] ∧
      (k = 0 → m = 1#6 → 192 < v.toNat)

/-- The tokens of a canonical group, cut into blocks of one value each, neighbours of different values (44_laws.md R173). -/
def CanonicalGroup (ts : List Instr) : Prop :=
  ∃ blocks : List (Byte × List Instr),
    ts = blocks.flatMap (fun x => x.2) ∧ (∀ x ∈ blocks, CanonicalBlock x.1 x.2) ∧ neighboursDiffer blocks

end Sys2Proof.ListModel
end

