-- ==== Sys2Proof/Safety.lean ====
section
/-! DEFINITION. What claims speak of: runs of the machine, the premises of a launch (70_reset_and_hazards.md R247), the invariant
of the machine (44_laws.md R176, R177), and frames. -/

namespace Sys2Proof.Machine

/-! ## Runs -/

/-- `k` steps, stopping at the first fault or refusal. -/
def runSteps : Nat → State → Out
  | 0, s => .next s
  | k + 1, s => andThen (step s) (runSteps k)

/-- Some number of steps leads from one state to the other. -/
def Reaches (s t : State) : Prop := ∃ k, runSteps k s = .next t

/-- The block is due to advance: no move of the host is due, or the move `tick` is. -/
def BlockMoves (s : State) : Prop := s.inbox = [] ∨ ∃ m, s.inbox = .tick :: m

/-- No reset is due. -/
def NoReset (s : State) : Prop := ∀ m, s.inbox ≠ .reset :: m

/-- `PortsAnswer`: every port call is answered (70_reset_and_hazards.md R246, R247). -/
structure PortsAnswer (s : State) : Prop where
  /-- the source -/
  src : s.srcAnswers = true
  /-- the sink -/
  snk : s.snkAnswers = true
  /-- the buffer -/
  pix : s.pixAnswers = true

/-- The byte due needs no buffer that does not answer: the buffer answers, or it is a pad byte. -/
def BufferAnswers (s : State) : Prop := s.pixAnswers = true ∨ s.W.toNat ≤ s.col

/-! ## Operands -/

/-- The instruction is the literal token of value `v`, in one of the four rows of `LIT`. -/
def IsLiteral (i : Instr) (v : Byte) : Prop :=
  i = .litLow v ∨ i = .litMid v ∨ i = .litHigh v ∨ (i = .litC0 ∧ v = 0xC0#8)

/-- The byte ENC is due to take: the pixel's in a buffer that holds it, or the pad byte (41_encoder.md R143). -/
def InByteIs (s : State) (x : Byte) : Prop :=
  (s.col < s.W.toNat ∧ s.row * s.W.toNat + s.col < s.pixSize ∧
      Memory.read s.pix (s.row * s.W.toNat + s.col) = some x) ∨
    (s.W.toNat ≤ s.col ∧ x = Config.padByte s.row s.col)

/-! ## The premises of a launch (70_reset_and_hazards.md R247) -/

/-- `Configured`, `BufferFits`, `Disjoint` and `Idle`. -/
structure LaunchReady (s : State) : Prop where
  /-- `Idle` -/
  idle : s.stat = .idle
  /-- `Configured`: `WIDTH` -/
  width : s.widthSet = true
  /-- `Configured`: `HEIGHT` -/
  height : s.heightSet = true
  /-- `Configured`: `BPL` -/
  bpl : s.bplSet = true
  /-- `BufferFits` -/
  buffer : s.width.toNat * s.height.toNat ≤ s.pixSize
  /-- `Disjoint` -/
  ports : s.disjoint = true

/-- `InputWritten`: the picture's bytes are these. -/
def InputIs (s : State) (pic : Nat → Byte) : Prop :=
  ∀ a, a < s.width.toNat * s.height.toNat → Memory.read s.pix a = some (pic a)

/-! ## The invariant -/

/-- The memory keeps its canonical form and lies inside the buffer. -/
def PixInv (s : State) : Prop := Memory.wf s.pix ∧ Memory.inside s.pix s.pixSize

/-- What holds while DEC runs: the counters stay in the ranges of 10_state.md R22 and the cursor inside the picture (44_laws.md
R176, R177); the buffer holds the picture. -/
structure DecInv (s : State) : Prop where
  /-- The buffer holds the picture. -/
  buffer : s.W.toNat * s.H.toNat ≤ s.pixSize
  /-- Range of `row`. -/
  row : s.row ≤ s.H.toNat
  /-- Range of `col`. -/
  col : s.col ≤ s.L.toNat + 62
  /-- After the last line no column is counted. -/
  last : s.row = s.H.toNat → s.col = 0
  /-- A line writes at most `W` bytes, one per column below `W`. -/
  cursor : s.wp ≤ s.row * s.W.toNat + min s.col s.W.toNat

/-- What holds while ENC runs: the ranges of 10_state.md R23, the bound on the sink bytes (44_laws.md R176, R178), and the input
is written. -/
structure EncInv (s : State) : Prop where
  /-- The buffer holds the picture. -/
  buffer : s.W.toNat * s.H.toNat ≤ s.pixSize
  /-- Every byte of the picture holds a value. -/
  written : ∀ a, a < s.W.toNat * s.H.toNat → (Memory.read s.pix a).isSome = true
  /-- Range of `row`. -/
  row : s.row ≤ s.H.toNat
  /-- Range of `col`. -/
  col : s.col ≤ s.L.toNat
  /-- After the last row no column is counted. -/
  last : s.row = s.H.toNat → s.col = 0
  /-- Inside a row a run is in hand. -/
  run : 0 < s.col → 1 ≤ s.rl ∧ s.rl ≤ s.col
  /-- At most two sink bytes for each input byte whose run was emitted. -/
  sent : 0 < s.col → s.cnt + 2 * s.rl ≤ 2 * (s.L.toNat * s.row + s.col)
  /-- The same between rows. -/
  sentRows : s.col = 0 → s.cnt ≤ 2 * (s.L.toNat * s.row)

/-- The machine invariant. -/
structure Inv (s : State) : Prop where
  /-- Memory. -/
  pix : PixInv s
  /-- While DEC runs. -/
  dec : s.stat = .busyDec → DecInv s
  /-- While ENC runs. -/
  enc : s.stat = .busyEnc → EncInv s

/-! ## Frames -/

/-- The host's own fields are unchanged: configuration, source bytes, wiring and answering of the ports,
buffer size, coming moves. -/
structure SameHostSide (s t : State) : Prop where
  /-- `WIDTH` -/
  width : t.width = s.width
  /-- `HEIGHT` -/
  height : t.height = s.height
  /-- `BPL` -/
  bpl : t.bpl = s.bpl
  /-- `WIDTH` written -/
  widthSet : t.widthSet = s.widthSet
  /-- `HEIGHT` written -/
  heightSet : t.heightSet = s.heightSet
  /-- `BPL` written -/
  bplSet : t.bplSet = s.bplSet
  /-- bytes of the source -/
  src : t.src = s.src
  /-- size of the buffer -/
  pixSize : t.pixSize = s.pixSize
  /-- wiring -/
  disjoint : t.disjoint = s.disjoint
  /-- answering of the source -/
  srcAnswers : t.srcAnswers = s.srcAnswers
  /-- answering of the sink -/
  snkAnswers : t.snkAnswers = s.snkAnswers
  /-- answering of the buffer -/
  pixAnswers : t.pixAnswers = s.pixAnswers
  /-- coming moves -/
  inbox : t.inbox = s.inbox

/-- The result fields and `STATE` are unchanged. -/
structure SameResults (s t : State) : Prop where
  /-- `OK` -/
  ok : t.ok = s.ok
  /-- `COUNT` -/
  count : t.count = s.count
  /-- `CAUSE` -/
  cause : t.cause = s.cause
  /-- `STATE` -/
  stat : t.stat = s.stat
  /-- the draws of free values -/
  draws : t.draws = s.draws

/-- The latched geometry is unchanged. -/
structure SameGeometry (s t : State) : Prop where
  /-- `W` -/
  W : t.W = s.W
  /-- `H` -/
  H : t.H = s.H
  /-- `L` -/
  L : t.L = s.L

/-- The working registers of ENC that DEC does not share are unchanged. -/
structure SameEncRegisters (s t : State) : Prop where
  /-- `rv` -/
  rv : t.rv = s.rv
  /-- `rl` -/
  rl : t.rl = s.rl
  /-- `cnt` -/
  cnt : t.cnt = s.cnt
  /-- `p` -/
  p : t.p = s.p

/-- The working registers of DEC that ENC does not share are unchanged. -/
structure SameDecRegisters (s t : State) : Prop where
  /-- `wp` -/
  wp : t.wp = s.wp
  /-- `b` -/
  b : t.b = s.b
  /-- `n` -/
  n : t.n = s.n
  /-- `v` -/
  v : t.v = s.v

/-- No byte of `PIX` changed, by the read of one byte. -/
def SamePix (s t : State) : Prop := ∀ a, Memory.read t.pix a = Memory.read s.pix a

end Sys2Proof.Machine
end

