-- ==== Sys2Proof/Certificates/Slice0/Obligations.lean ====
section
/-! DEFINITION. The statements about the model, for the provers. Each docstring names the rule of spec/ it formalises, or says
that it rests on a choice of the model. -/

open Sys2Proof Sys2Proof.Machine

/-! ## Encodings -/

/-- Encode, then decode: every instruction comes back, with every operand its row admits, whatever bytes follow a token
(30_encoding.md R81 to R86, R90). -/
def Obligations.EncodeThenDecodeGivesTheInstructionBack : Prop :=
  ∀ (i : Instr) (rest : List Byte), WellFormed i →
    decode ((encode i).followedBy rest) = .token i (if i.isToken = true then rest else [])

/-- Decode, then encode: the token found is one of the table's rows, and its bytes are the ones that were read, so that no two
byte sequences are read as one token and none is read in two ways (30_encoding.md R81, R82, R85). -/
def Obligations.DecodedTokenSpellsItsBytes : Prop :=
  ∀ (bytes rest : List Byte) (i : Instr), decodeToken bytes = .token i rest →
    WellFormed i ∧ i.isToken = true ∧ encodeToken i ++ rest = bytes ∧ (encodeToken i).length = tokenLength i

/-- The marker test is the comparison with 192, and on bits it is `b[7:6] = 11` and `b[5:0] != 0`; 0xC0 is no marker
(30_encoding.md R80). -/
def Obligations.MarkerTestIsTheComparisonWith192 : Prop :=
  ∀ b : Byte, (isMarker b = true ↔ 192 < b.toNat) ∧
    (isMarker b = true ↔ b.extractLsb' 6 2 = 3#2 ∧ b.extractLsb' 0 6 ≠ 0#6)

/-- The run length is the low six bits of a marker, 1 to 63 (30_encoding.md R83); the marker byte of a length 1 to 63 is
`0xC0 | n` = `0xC0 + n`, 0xC1 to 0xFF, and gives the length back (R84). -/
def Obligations.MarkerByteAndRunLengthAgree : Prop :=
  (∀ b : Byte, 192 < b.toNat →
    (runLength b).toNat = (b &&& 0x3F#8).toNat ∧ 1 ≤ (runLength b).toNat ∧ markerByte (runLength b) = b) ∧
  (∀ n : BitVec 6, n ≠ 0 →
    (markerByte n).toNat = 0xC0 + n.toNat ∧ 192 < (markerByte n).toNat ∧ runLength (markerByte n) = n)

/-- No byte is illegal: the decoder fails on nothing but a list that ends before a token, or after a marker byte
(30_encoding.md R87). -/
def Obligations.DecoderFailsOnlyOnAnEarlyEnd : Prop :=
  ∀ bytes : List Byte,
    (decodeToken bytes = .eofToken ↔ bytes = []) ∧
    (decodeToken bytes = .eofValue ↔ ∃ b, bytes = [b] ∧ 192 < b.toNat)

/-- Words written out from 30_encoding.md R81, R82, R86, R90 decode to the instructions they stand for. -/
def Obligations.WordsOfTheTableDecode : Prop :=
  decode (.stream [0b00111111#8]) = .token (.litLow 0x3F#8) [] ∧
  decode (.stream [0b01000000#8]) = .token (.litMid 0x40#8) [] ∧
  decode (.stream [0b10111111#8]) = .token (.litHigh 0xBF#8) [] ∧
  decode (.stream [0b11000000#8]) = .token .litC0 [] ∧
  decode (.stream [0b11000010#8, 0b11000010#8]) = .token (.run 2#6 0xC2#8) [] ∧
  decode (.command 0b0#1) = .token .decode [] ∧
  decode (.command 0b1#1) = .token .encode []

/-- The decoder agrees with the opcode table matched in its order (30_encoding.md R86, R93). -/
def Obligations.DecoderFollowsTheTableInOrder : Prop :=
  ∀ (b : Byte) (bytes rest : List Byte) (i : Instr),
    decodeToken (b :: bytes) = .token i rest → firstRow b = some (rowOf i)

/-! ## Tokens -/

/-- `LIT v` (40_decoder.md R114) executes, in each of its four rows: `n <- 1`, `v <- b`, and the write rule of R116 once: below
`W` the byte is stored at the cursor, which moves; at or above `W` only `col` moves. Nothing else changes. -/
def Obligations.LiteralTokenExecutes : Prop :=
  ∀ (s : State) (i : Instr) (v : Byte), IsLiteral i v →
    (s.col < s.W.toNat → s.wp < s.pixSize →
      exec i s = .next { s with
        n := 1#6, v := v, pix := Memory.write s.pix s.wp v, wp := s.wp + 1, col := s.col + 1 }) ∧
    (s.W.toNat ≤ s.col → exec i s = .next { s with n := 1#6, v := v, col := s.col + 1 })

/-- `RUN n, v` (40_decoder.md R115, R116) executes: the first `min(n, W - col)` repetitions, those at columns below `W`, store
`v` at the cursor, which moves by as many; `col` moves by `n`; nothing else changes. -/
def Obligations.RunTokenExecutes : Prop :=
  ∀ (s : State) (n : BitVec 6) (v : Byte),
    (s.W.toNat ≤ s.col ∨ s.wp + min n.toNat (s.W.toNat - s.col) ≤ s.pixSize) →
    ∃ t, exec (.run n v) s = .next t ∧
      t = { s with
        n := n, v := v, col := s.col + n.toNat,
        wp := s.wp + min n.toNat (s.W.toNat - s.col), pix := t.pix } ∧
      ∀ a, Memory.read t.pix a =
        if s.wp ≤ a ∧ a < s.wp + min n.toNat (s.W.toNat - s.col) then some v else Memory.read s.pix a

/-- The frame of the tokens (40_decoder.md R114 to R116): a token that answers next changes `n`, `v`, `col`, `wp` and the bytes
of `PIX` from the cursor on, as many as it writes, and nothing else. -/
def Obligations.TokenFrame : Prop :=
  ∀ (i : Instr) (s t : State), i.isToken = true → exec i s = .next t →
    SameHostSide s t ∧ SameResults s t ∧ SameGeometry s t ∧ SameEncRegisters s t ∧
    t.row = s.row ∧ t.b = s.b ∧ t.srcPos = s.srcPos ∧ t.snk = s.snk ∧
    t.col = s.col + weight i ∧ t.wp = s.wp + writtenCount (weight i) s.W.toNat s.col ∧
    ∀ a, ¬ (s.wp ≤ a ∧ a < s.wp + writtenCount (weight i) s.W.toNat s.col) →
      Memory.read t.pix a = Memory.read s.pix a

/-- A token that would write outside the buffer faults by name: the model's choice (log 15; 60_exceptions.md R222 (b) gives such
a state no meaning). -/
def Obligations.TokenOutsideTheBufferFaults : Prop :=
  ∀ (i : Instr) (s : State), i.isToken = true →
    0 < writtenCount (weight i) s.W.toNat s.col →
    s.pixSize < s.wp + writtenCount (weight i) s.W.toNat s.col →
    exec i s = .fault .pixIndexOutside

/-! ## Starting an operation -/

/-- `DECODE` with its premises is accepted (10_state.md R21, R30, R38; 40_decoder.md R111): the geometry is latched, `wp`, `row`
are 0, `STATE` is `BUSY_DEC`, the results hold some value. (`col` at 0 already here is the model's, log 9.) -/
def Obligations.DecodeStartIsAccepted : Prop :=
  ∀ s : State, LaunchReady s →
    ∃ o c k, exec .decode s = .next { s with
      W := s.width, H := s.height, L := s.bpl, wp := 0, row := 0, col := 0, stat := .busyDec,
      ok := o, cause := c, count := k, draws := s.draws + 1 }

/-- `ENCODE` with its premises is accepted (10_state.md R21, R30, R38; 41_encoder.md R141): the geometry is latched, `cnt`, `row`
are 0, `STATE` is `BUSY_ENC`, the results hold some value. (`col` at 0 already here is the model's, log 9.) -/
def Obligations.EncodeStartIsAccepted : Prop :=
  ∀ (s : State) (pic : Nat → Byte), LaunchReady s → InputIs s pic →
    ∃ o c k, exec .encode s = .next { s with
      W := s.width, H := s.height, L := s.bpl, cnt := 0, row := 0, col := 0, stat := .busyEnc,
      ok := o, cause := c, count := k, draws := s.draws + 1 }

/-- A `START` while the block is busy changes nothing (10_state.md R31). That it is a step at all, which answers the state as it
is, where R31 says that the model has no step for it, is the model's choice (log 6). -/
def Obligations.StartWhileBusyChangesNothing : Prop :=
  ∀ s : State, s.stat ≠ .idle → exec .decode s = .next s ∧ exec .encode s = .next s

/-- A launch that lacks a premise is refused by the premise's name (60_exceptions.md R222, 70_reset_and_hazards.md R247); which
name comes first where several lack is the model's choice (log 22). -/
def Obligations.LaunchWithoutAPremiseIsRefused : Prop :=
  ∀ s : State, s.stat = .idle →
    (¬ (s.widthSet = true ∧ s.heightSet = true ∧ s.bplSet = true) →
      exec .decode s = .refused .launchNotConfigured ∧ exec .encode s = .refused .launchNotConfigured) ∧
    (s.widthSet = true ∧ s.heightSet = true ∧ s.bplSet = true → s.pixSize < s.width.toNat * s.height.toNat →
      exec .decode s = .refused .launchBufferTooSmall ∧ exec .encode s = .refused .launchBufferTooSmall) ∧
    (s.widthSet = true ∧ s.heightSet = true ∧ s.bplSet = true → s.width.toNat * s.height.toNat ≤ s.pixSize →
      s.disjoint = false →
      exec .decode s = .refused .launchPortsAliased ∧ exec .encode s = .refused .launchPortsAliased) ∧
    (LaunchReady s → (∃ a, a < s.width.toNat * s.height.toNat ∧ Memory.read s.pix a = none) →
      exec .encode s = .refused .launchInputUnwritten)

/-- The frame of `DECODE` and `ENCODE` as instructions (10_state.md R38): a `START` that answers next touches no port, no
configuration field and none of `b`, `n`, `v`, `rv`, `rl`, `p`; `DECODE` leaves `cnt`, `ENCODE` leaves `wp`. -/
def Obligations.StartFrame : Prop :=
  ∀ (s t : State),
    (exec .decode s = .next t ∨ exec .encode s = .next t) →
      SameHostSide s t ∧ t.pix = s.pix ∧ t.srcPos = s.srcPos ∧ t.snk = s.snk ∧
      t.b = s.b ∧ t.n = s.n ∧ t.v = s.v ∧ t.rv = s.rv ∧ t.rl = s.rl ∧ t.p = s.p ∧
      (exec .decode s = .next t → t.cnt = s.cnt) ∧ (exec .encode s = .next t → t.wp = s.wp)

/-! ## Steps of DEC -/

/-- A step runs the token the decoder finds at the source's position (40_decoder.md R113): it is `exec` of it, once the token's
bytes are read: the position moved by the token's length (10_state.md R24, 30_encoding.md R85) and `b` is the first byte. The source
answers, and so does the buffer where a byte is to be written. -/
def Obligations.StepRunsTheDecodedToken : Prop :=
  ∀ (s : State) (i : Instr) (rest : List Byte) (x : Byte),
    BlockMoves s → s.stat = .busyDec → s.row < s.H.toNat → s.col < s.L.toNat →
    s.srcAnswers = true → BufferAnswers s →
    decodeToken (s.src.drop s.srcPos) = .token i rest → s.src[s.srcPos]? = some x →
    step s = exec i { s with inbox := s.inbox.tail, b := x, srcPos := s.srcPos + tokenLength i } ∧
      s.src.drop (s.srcPos + tokenLength i) = rest

/-- A step runs the block operation the host's `START` selects: `op` = 0 is `DECODE`, `op` = 1 is `ENCODE` (30_encoding.md
R90). -/
def Obligations.StepRunsTheStartedOperation : Prop :=
  ∀ (s : State) (m : List HostMove),
    (s.inbox = .start 0#1 :: m → step s = exec .decode { s with inbox := m }) ∧
    (s.inbox = .start 1#1 :: m → step s = exec .encode { s with inbox := m })

/-- `SourceExhausted` at a token fetch (60_exceptions.md R210, R216): `OK <- 0`, `CAUSE <- 1`, `COUNT <- 0`, `STATE <- IDLE`,
no port event, nothing else (that `b` keeps its old value, `EOF` being no byte, is the model's choice, log 16). -/
def Obligations.EndOfSourceAtATokenFetch : Prop :=
  ∀ s : State, BlockMoves s → s.stat = .busyDec → s.row < s.H.toNat → s.col < s.L.toNat →
    s.srcAnswers = true → s.src.length ≤ s.srcPos →
    step s = .next { s with
      inbox := s.inbox.tail, ok := false, cause := .eofToken, count := 0, stat := .idle }

/-- `SourceExhausted` at a value fetch (60_exceptions.md R210, R216; 40_decoder.md R115): the marker byte was read, `b` and
`n` hold it and its length; nothing is written for the token and `col` does not move (that `v` keeps its old value, `EOF` being no byte,
is the model's choice, log 16). -/
def Obligations.EndOfSourceAtAValueFetch : Prop :=
  ∀ (s : State) (x : Byte), BlockMoves s → s.stat = .busyDec → s.row < s.H.toNat → s.col < s.L.toNat →
    s.srcAnswers = true →
    s.src[s.srcPos]? = some x → 192 < x.toNat → s.src.length = s.srcPos + 1 →
    step s = .next { s with
      inbox := s.inbox.tail, b := x, n := runLength x, srcPos := s.srcPos + 1,
      ok := false, cause := .eofValue, count := 0, stat := .idle }

/-- A full line ends, whatever the source holds: the next line begins at column 0, no byte is read (40_decoder.md R112, R117;
60_exceptions.md R215). That `col` is set to 0 in this step, and so after the last line too, is the model's choice (log 9). -/
def Obligations.FullLineEnds : Prop :=
  ∀ s : State, BlockMoves s → s.stat = .busyDec → s.row < s.H.toNat → s.L.toNat ≤ s.col →
    step s = .next { s with inbox := s.inbox.tail, row := s.row + 1, col := 0 }

/-- When `H` lines are done DECODE ends, whatever the source holds: `OK <- 1`, `CAUSE <- 0`, `COUNT <- 0`, `STATE <- IDLE`
(40_decoder.md R118, 60_exceptions.md R215). -/
def Obligations.DecodeEndsAfterTheLastLine : Prop :=
  ∀ s : State, BlockMoves s → s.stat = .busyDec → s.H.toNat ≤ s.row →
    step s = .next { s with
      inbox := s.inbox.tail, ok := true, cause := .none, count := 0, stat := .idle }

/-! ## Steps of ENC -/

/-- Run detection (41_encoder.md R143, R144): the row's first byte opens a run; an equal byte lengthens it; a byte that differs
has the finished run emitted (R140, `Flush`) and opens a run. The count goes up by the bytes emitted (R149). The ports the step calls
answer: the buffer for a pixel byte, the sink for a run to emit. -/
def Obligations.EncoderTakesAByte : Prop :=
  ∀ (s : State) (x : Byte), BlockMoves s → s.stat = .busyEnc → s.row < s.H.toNat → s.col < s.L.toNat →
    BufferAnswers s → InByteIs s x →
    (s.col = 0 → step s = .next { s with inbox := s.inbox.tail, rv := x, rl := 1, col := 1 }) ∧
    (0 < s.col → x = s.rv →
      step s = .next { s with inbox := s.inbox.tail, p := x, rl := s.rl + 1, col := s.col + 1 }) ∧
    (0 < s.col → x ≠ s.rv → s.snkAnswers = true →
      step s = .next { s with
        inbox := s.inbox.tail, p := x, rv := x, rl := 1, col := s.col + 1,
        snk := s.snk ++ ListModel.emit s.rv s.rl, cnt := s.cnt + (ListModel.emit s.rv s.rl).length })

/-- A row ends (41_encoder.md R140, R142): the run in hand is emitted, or nothing if the row is empty, and the next row begins.
The sink answers where a run is emitted. That `col` is set to 0 in this step, in both clauses and after the last row too, is the
model's choice (log 9). -/
def Obligations.EncoderEndsARow : Prop :=
  ∀ s : State, BlockMoves s → s.stat = .busyEnc → s.row < s.H.toNat → s.L.toNat ≤ s.col →
    (0 < s.L.toNat → s.snkAnswers = true →
      step s = .next { s with
        inbox := s.inbox.tail, row := s.row + 1, col := 0,
        snk := s.snk ++ ListModel.emit s.rv s.rl, cnt := s.cnt + (ListModel.emit s.rv s.rl).length }) ∧
    (s.L.toNat = 0 → step s = .next { s with inbox := s.inbox.tail, row := s.row + 1, col := 0 })

/-- After the last row ENCODE ends: `COUNT <- cnt`, `OK <- 1`, `CAUSE <- 0`, `STATE <- IDLE` (41_encoder.md R150). -/
def Obligations.EncodeEndsAfterTheLastRow : Prop :=
  ∀ s : State, BlockMoves s → s.stat = .busyEnc → s.H.toNat ≤ s.row →
    step s = .next { s with
      inbox := s.inbox.tail, ok := true, cause := .none, count := s.cnt, stat := .idle }

/-! ## Waiting, the host, reset -/

/-- In `IDLE` with no move due the block waits (70_reset_and_hazards.md R231). The move `hold` is one step of a port that has not
answered: the block stays in the same state (20_memory.md R57; the move is the model's, log 5). A port begins or stops answering at any
time (R57; the move is the model's, log 20). -/
def Obligations.BlockWaitsAndHolds : Prop :=
  ∀ s : State,
    (s.stat = .idle → BlockMoves s → step s = .next { s with inbox := s.inbox.tail }) ∧
    (∀ m, s.inbox = .hold :: m → step s = .next { s with inbox := m }) ∧
    (∀ m yes, s.inbox = .portAnswers .source yes :: m → step s = .next { s with inbox := m, srcAnswers := yes }) ∧
    (∀ m yes, s.inbox = .portAnswers .sink yes :: m → step s = .next { s with inbox := m, snkAnswers := yes }) ∧
    (∀ m yes, s.inbox = .portAnswers .buffer yes :: m → step s = .next { s with inbox := m, pixAnswers := yes })

/-- The host writes `WIDTH`, `HEIGHT`, `BPL` in `IDLE`, any value, and reads it back (10_state.md R28, R29). -/
def Obligations.HostConfiguresInIdle : Prop :=
  ∀ (s : State) (m : List HostMove) (x : Half), s.stat = .idle →
    (s.inbox = .setWidth x :: m →
      ∃ t, step s = .next t ∧ t = { s with inbox := m, width := x, widthSet := true } ∧ hostRead .width t = x.toNat) ∧
    (s.inbox = .setHeight x :: m →
      ∃ t, step s = .next t ∧ t = { s with inbox := m, height := x, heightSet := true } ∧ hostRead .height t = x.toNat) ∧
    (s.inbox = .setBpl x :: m →
      ∃ t, step s = .next t ∧ t = { s with inbox := m, bpl := x, bplSet := true } ∧ hostRead .bpl t = x.toNat)

/-- The host gives the buffer, its bytes and the streams in `IDLE` (70_reset_and_hazards.md R233 (3), (4)), and wires the ports
disjoint or not (20_memory.md R63); a byte outside the buffer it gave is refused (the model's choice, log 15). -/
def Obligations.HostGivesThePorts : Prop :=
  ∀ (s : State) (m : List HostMove) (bytes : List Byte) (k a : Nat) (v : Byte) (separate : Bool), s.stat = .idle →
    (s.inbox = .giveBuffer k :: m → step s = .next { s with inbox := m, pix := [], pixSize := k }) ∧
    (s.inbox = .writePix a v :: m → a < s.pixSize →
      step s = .next { s with inbox := m, pix := Memory.write s.pix a v }) ∧
    (s.inbox = .writePix a v :: m → s.pixSize ≤ a → step s = .refused .hostWriteOutsideBuffer) ∧
    (s.inbox = .giveSource bytes k :: m → step s = .next { s with inbox := m, src := bytes, srcPos := k }) ∧
    (s.inbox = .giveSink bytes :: m → step s = .next { s with inbox := m, snk := bytes }) ∧
    (s.inbox = .wirePorts separate :: m → step s = .next { s with inbox := m, disjoint := separate })

/-- A move of the host on the configuration, `PIX`, a stream or the wiring while the block is busy is refused (60_exceptions.md
R222 (d), 10_state.md R29). -/
def Obligations.HostMoveWhileBusyIsRefused : Prop :=
  ∀ (s : State) (m : List HostMove), s.stat ≠ .idle →
    (∃ x : Half, s.inbox = .setWidth x :: m ∨ s.inbox = .setHeight x :: m ∨ s.inbox = .setBpl x :: m) ∨
    (∃ (k : Nat) (v : Byte), s.inbox = .giveBuffer k :: m ∨ s.inbox = .writePix k v :: m) ∨
    (∃ (bytes : List Byte) (k : Nat), s.inbox = .giveSource bytes k :: m ∨ s.inbox = .giveSink bytes :: m) ∨
    (∃ x : Bool, s.inbox = .wirePorts x :: m) →
    step s = .refused .hostMoveWhileBusy

/-- A reset brings the block to `IDLE` from any state, and does not touch `PIX`, the source or the sink
(70_reset_and_hazards.md R230, R232). -/
def Obligations.ResetBringsIdleAndTouchesNoPort : Prop :=
  ∀ (s : State) (m : List HostMove), s.inbox = .reset :: m →
    ∃ t, step s = .next t ∧ t.stat = .idle ∧
      t.pix = s.pix ∧ t.pixSize = s.pixSize ∧ t.src = s.src ∧ t.srcPos = s.srcPos ∧ t.snk = s.snk ∧
      t.disjoint = s.disjoint ∧ t.inbox = m ∧
      t.widthSet = false ∧ t.heightSet = false ∧ t.bplSet = false

/-- After reset the block is in `IDLE` and waits there; nothing runs by itself (10_state.md R35, 70_reset_and_hazards.md R230,
R231). -/
def Obligations.ResetStateIsIdleAndWaits : Prop :=
  State.reset.stat = .idle ∧ hostRead .stat State.reset = 0 ∧ step State.reset = .next State.reset

/-- The codes the host reads in the fields (10_state.md R28, 60_exceptions.md R211): `STATE` 0, 1, 2; `CAUSE` 0, 1, 2; `OK` 0, 1;
the configuration as written. -/
def Obligations.FieldsReadAsTheirCodes : Prop :=
  ∀ s : State,
    (s.stat = .idle → hostRead .stat s = 0) ∧ (s.stat = .busyDec → hostRead .stat s = 1) ∧
    (s.stat = .busyEnc → hostRead .stat s = 2) ∧
    (s.cause = .none → hostRead .cause s = 0) ∧ (s.cause = .eofToken → hostRead .cause s = 1) ∧
    (s.cause = .eofValue → hostRead .cause s = 2) ∧
    (s.ok = true → hostRead .ok s = 1) ∧ (s.ok = false → hostRead .ok s = 0) ∧
    hostRead .count s = s.count ∧
    hostRead .width s = s.width.toNat ∧ hostRead .height s = s.height.toNat ∧ hostRead .bpl s = s.bpl.toNat

/-! ## Rules of the whole machine -/

/-- `STATE` moves as 10_state.md R30 lists and in no other way: from `IDLE` only by a `START`, to the unit its operand names;
from one busy value never to the other; from a busy value to `IDLE` only by a reset, by the end of the operation once its lines are
done, or, for DEC, by the end of the source at a token fetch or at a value fetch. -/
def Obligations.StateMovesAsListed : Prop :=
  ∀ s t : State, step s = .next t →
    (s.stat = .idle → t.stat = .busyDec → ∃ m, s.inbox = .start 0#1 :: m) ∧
    (s.stat = .idle → t.stat = .busyEnc → ∃ m, s.inbox = .start 1#1 :: m) ∧
    (s.stat = .busyDec → t.stat ≠ .busyEnc) ∧ (s.stat = .busyEnc → t.stat ≠ .busyDec) ∧
    (s.stat = .busyDec → t.stat = .idle →
      (∃ m, s.inbox = .reset :: m) ∨
      BlockMoves s ∧
        (s.H.toNat ≤ s.row ∨
          s.row < s.H.toNat ∧ s.col < s.L.toNat ∧ s.srcAnswers = true ∧
            (s.src.length ≤ s.srcPos ∨
              ∃ x, s.src[s.srcPos]? = some x ∧ 192 < x.toNat ∧ s.src.length = s.srcPos + 1))) ∧
    (s.stat = .busyEnc → t.stat = .idle →
      (∃ m, s.inbox = .reset :: m) ∨ BlockMoves s ∧ s.H.toNat ≤ s.row)

/-- The latched geometry is kept until the operation ends (10_state.md R21): no step of a busy block changes it, unless a reset
is due. -/
def Obligations.GeometryIsKeptWhileBusy : Prop :=
  ∀ s t : State, s.stat ≠ .idle → NoReset s → step s = .next t → SameGeometry s t

/-- DECODE never touches the sink, and ENCODE never touches `PIX` nor the source (20_memory.md R51, R52; 10_state.md R33). -/
def Obligations.UnitsKeepToTheirPorts : Prop :=
  ∀ s t : State, step s = .next t →
    (s.stat = .busyDec → t.snk = s.snk) ∧
    (s.stat = .busyEnc → t.pix = s.pix ∧ t.src = s.src ∧ t.srcPos = s.srcPos)

/-- The source position moves forward only, by at most the two bytes of a token in a step, and only while DEC runs; the source's
bytes never change (10_state.md R24, 20_memory.md R56, R58). -/
def Obligations.SourcePositionOnlyMovesForward : Prop :=
  ∀ s t : State, s.stat ≠ .idle → step s = .next t →
    t.src = s.src ∧ s.srcPos ≤ t.srcPos ∧ t.srcPos ≤ s.srcPos + 2 ∧ (s.stat = .busyEnc → t.srcPos = s.srcPos)

/-- The sink is append only while the block is busy, and `cnt` goes up by one with every byte handed to it (10_state.md R25,
20_memory.md R59, 41_encoder.md R149). -/
def Obligations.SinkIsAppendedAndCounted : Prop :=
  ∀ s t : State, s.stat ≠ .idle → NoReset s → step s = .next t →
    ∃ bytes, t.snk = s.snk ++ bytes ∧ t.cnt = s.cnt + bytes.length

/-- DECODE writes at the cursor only, and the cursor moves by the number of bytes written (20_memory.md R51): a byte of `PIX`
below the old cursor or at or above the new one is as before; the bytes between hold one value, the token's. -/
def Obligations.DecodeWritesAtTheCursor : Prop :=
  ∀ s t : State, s.stat = .busyDec → NoReset s → step s = .next t →
    s.wp ≤ t.wp ∧
    (∀ a, a < s.wp ∨ t.wp ≤ a → Memory.read t.pix a = Memory.read s.pix a) ∧
    (∀ a, s.wp ≤ a → a < t.wp → Memory.read t.pix a = some t.v)

/-! ## The invariant -/

/-- The invariant holds at reset. -/
def Obligations.InvariantHoldsAtReset : Prop := Inv State.reset

/-- Every step keeps the invariant: the memory stays canonical and inside the buffer; while DEC runs the counters stay in the
ranges of 10_state.md R22 and the cursor within one `W` for each line (44_laws.md R176, R177); while ENC runs the counters stay in
the ranges of R23, the sink bytes within two for each input byte (R176, R178), and the input stays written. -/
def Obligations.EveryStepKeepsTheInvariant : Prop :=
  ∀ s t : State, Inv s → step s = .next t → Inv t

/-- From a state that meets the invariant no step faults: DEC stays inside the picture (60_exceptions.md R213, 20_memory.md R51)
and ENC reads only bytes that hold a value (R52, 41_encoder.md R151). -/
def Obligations.NoStepFaults : Prop :=
  ∀ (s : State) (f : Fault), Inv s → step s ≠ .fault f

/-- From a state that meets the invariant the block always has a next state when it is due to advance: DECODE and ENCODE are never
faulted and never refused on their way; and where the ports answer and the block is busy that next state is another one, so that
nothing but a port holds it (44_laws.md R180, 20_memory.md R57). -/
def Obligations.BlockAlwaysGoesOn : Prop :=
  ∀ s : State, Inv s → BlockMoves s →
    ∃ t, step s = .next t ∧ (PortsAnswer s → s.stat ≠ .idle → t ≠ { s with inbox := s.inbox.tail })

/-- The counters fit the minimum widths (00_scope.md R7, 10_state.md R22, R23; 44_laws.md R176). -/
def Obligations.CountersFitTheirWidths : Prop :=
  ∀ s : State, Inv s →
    (s.stat = .busyDec →
      s.row < 2 ^ 16 ∧ s.col < 2 ^ 17 ∧ s.wp ≤ s.W.toNat * s.H.toNat ∧ s.wp < 2 ^ 32) ∧
    (s.stat = .busyEnc →
      s.row < 2 ^ 16 ∧ s.col < 2 ^ 16 ∧ (0 < s.col → s.rl < 2 ^ 16) ∧
      s.cnt ≤ 2 * s.L.toNat * s.H.toNat ∧ s.cnt < 2 ^ 33)

/-- Every operation ends, if the ports answer (70_reset_and_hazards.md R246) and the host keeps its hands off (44_laws.md R180). The
bound counts the model's own steps, one for each column, one for each line end, one for the end: the granularity of log 9, the model's
choice; that the ports answer is the premise `PortsAnswer` (log 20). -/
def Obligations.EveryOperationEnds : Prop :=
  ∀ s : State, Inv s → PortsAnswer s → s.inbox = [] →
    ∃ k t, k ≤ s.H.toNat * (s.L.toNat + 1) + 1 ∧ runSteps k s = .next t ∧ t.stat = .idle

/-! ## The machine and the functions -/

/-- DECODE is the function of 40_decoder.md R124, on success, if the ports answer (log 20): from an accepted `START(op=0)` the
block comes to `IDLE` with `OK` = 1, `CAUSE` = 0, `COUNT` = 0, the source holds exactly `rest`, `PIX` holds exactly `out` from
index 0 and is otherwise untouched, and the sink is untouched. -/
def Obligations.DecodeComputesItsFunction : Prop :=
  ∀ (s : State) (rest out : List Byte), LaunchReady s → PortsAnswer s → s.inbox = [.start 0#1] →
    ListModel.decodeFrame s.width.toNat s.height.toNat s.bpl.toNat (s.src.drop s.srcPos) = some (rest, out) →
    ∃ t, Reaches s t ∧ t.stat = .idle ∧ t.ok = true ∧ t.cause = .none ∧ t.count = 0 ∧
      t.src = s.src ∧ t.src.drop t.srcPos = rest ∧ t.snk = s.snk ∧
      (∀ a, a < out.length → Memory.read t.pix a = out[a]?) ∧
      (∀ a, out.length ≤ a → Memory.read t.pix a = Memory.read s.pix a)

/-- DECODE on failure (40_decoder.md R119, R124; 60_exceptions.md R212), if the ports answer (log 20): where the function has no
result the block comes to `IDLE` with `OK` = 0, a cause, `COUNT` = 0, the source at its end, and `PIX` untouched at and above the cursor. -/
def Obligations.DecodeFailsWhenItsFunctionHasNoResult : Prop :=
  ∀ s : State, LaunchReady s → PortsAnswer s → s.inbox = [.start 0#1] →
    ListModel.decodeFrame s.width.toNat s.height.toNat s.bpl.toNat (s.src.drop s.srcPos) = none →
    ∃ t, Reaches s t ∧ t.stat = .idle ∧ t.ok = false ∧ t.cause ≠ .none ∧ t.count = 0 ∧
      t.src.length ≤ t.srcPos ∧ t.snk = s.snk ∧
      ∀ a, t.wp ≤ a → Memory.read t.pix a = Memory.read s.pix a

/-- ENCODE is the function of 41_encoder.md R155 and ends as R150 says, if the ports answer (log 20): from an accepted
`START(op=1)` the block comes to `IDLE` with `OK` = 1, `CAUSE` = 0, the sink has exactly the bytes of the function appended, `COUNT` is their number, and `PIX` and the source are
untouched. -/
def Obligations.EncodeComputesItsFunction : Prop :=
  ∀ (s : State) (pic : Nat → Byte), LaunchReady s → InputIs s pic → PortsAnswer s → s.inbox = [.start 1#1] →
    ∃ t, Reaches s t ∧ t.stat = .idle ∧ t.ok = true ∧ t.cause = .none ∧
      t.snk = s.snk ++ ListModel.encodeFrame Config.padByte pic s.width.toNat s.height.toNat s.bpl.toNat ∧
      t.count = (ListModel.encodeFrame Config.padByte pic s.width.toNat s.height.toNat s.bpl.toNat).length ∧
      t.pix = s.pix ∧ t.src = s.src ∧ t.srcPos = s.srcPos

/-! ## The laws of 44_laws.md -/

/-- The round trip, `L >= W` (44_laws.md R174): for every picture, pad byte and rest, decoding the encoding gives the picture and
the rest. -/
def Obligations.RoundTripRestoresThePicture : Prop :=
  ∀ (W H L : Nat) (pad : Nat → Nat → Byte) (pic : Nat → Byte) (rest : List Byte), W ≤ L →
    ListModel.decodeFrame W H L (ListModel.encodeFrame pad pic W H L ++ rest) =
      some (rest, (List.range (W * H)).map pic)

/-- The round trip, `L < W` (44_laws.md R175): the last `W - L` bytes of every row are lost and the rows are packed. -/
def Obligations.RoundTripPacksNarrowLines : Prop :=
  ∀ (W H L : Nat) (pad : Nat → Nat → Byte) (pic : Nat → Byte) (rest : List Byte), L < W →
    ListModel.decodeFrame W H L (ListModel.encodeFrame pad pic W H L ++ rest) =
      some (rest, (List.range H).flatMap fun r => (List.range L).map fun c => pic (r * W + c))

/-- ENCODE emits a line-exact stream (44_laws.md R172): group `r` spells `encRow(r)` and expands to `rowbytes(r)`. -/
def Obligations.EncodedStreamIsLineExact : Prop :=
  ∀ (W H L : Nat) (pad : Nat → Nat → Byte) (pic : Nat → Byte),
    ∃ groups, ListModel.LineExactBy H L groups (ListModel.encodeFrame pad pic W H L) ∧
      groups.map ListModel.tokenBytes = (List.range H).map (ListModel.encRow pad pic W L) ∧
      groups.map ListModel.expand = (List.range H).map (ListModel.rowBytes pad pic W L)

/-- DECODE of a line-exact stream succeeds, reads exactly its bytes and writes the first `min(W, L)` bytes of each group's
expansion (44_laws.md R171, without its converse). -/
def Obligations.LineExactStreamDecodes : Prop :=
  ∀ (W H L : Nat) (groups : List (List Instr)) (t rest : List Byte),
    ListModel.LineExactBy H L groups t →
    ListModel.decodeFrame W H L (t ++ rest) =
      some (rest, groups.flatMap fun g => (ListModel.expand g).take (min W L))

/-- The machine's emission of a run is the loop of 41_encoder.md R140, `emit` of R155. -/
def Obligations.EmissionIsTheFlushLoop : Prop :=
  ∀ (v : Byte) (len : Nat), 1 ≤ len → emitBytes v len = ListModel.emit v len

/-- The greedy cut (41_encoder.md R147, R148): `floor((len - 1) / 63)` chunks of 63, then one chunk of the remainder, which lies in
1 to 63. -/
def Obligations.LongRunIsCutGreedily : Prop :=
  ∀ (v : Byte) (len : Nat), 1 ≤ len →
    ∃ k : BitVec 6, k.toNat = len - 63 * ((len - 1) / 63) ∧ 1 ≤ k.toNat ∧ k.toNat ≤ 63 ∧
      chunkTokens v len = List.replicate ((len - 1) / 63) (.run 63#6 v) ++ [.run k v]

/-- The raw-literal rule (41_encoder.md R145) and its other side (R146): a run of length 1 and value up to 192 is one `LIT`, one byte;
every other run is `RUN` tokens of its value, no length 0 among them; either way the tokens stand for the run. The value 192 itself qualifies:
it is the byte 0xC0, which the decoder reads back as the literal 192 (R145, 30_encoding.md R95). -/
def Obligations.LoneSmallValueIsRawAndTheRestAreRuns : Prop :=
  ∀ (v : Byte) (len : Nat), 1 ≤ len →
    (len = 1 ∧ v.toNat ≤ 192 → emitTokens v len = [literalOf v] ∧ emitBytes v len = [v]) ∧
    (¬ (len = 1 ∧ v.toNat ≤ 192) → ∀ t ∈ emitTokens v len, ∃ n : BitVec 6, n ≠ 0 ∧ t = .run n v) ∧
    ListModel.expand (emitTokens v len) = List.replicate len v ∧
    emitBytes 0xC0#8 1 = [0xC0#8] ∧ ∀ rest, decodeToken (0xC0#8 :: rest) = .token .litC0 rest

/-- Runs are maximal, and the cut is unique (41_encoder.md R144): the runs of a row spell it, each has length at least 1,
neighbours have different values, and no other list of runs does so. -/
def Obligations.RunsAreTheUniqueMaximalCut : Prop :=
  ∀ (xs : List Byte) (rs : List (Byte × Nat)), ListModel.IsCut xs rs ↔ rs = ListModel.runs xs

/-- Canonical groups are exactly what ENC emits for the row they expand to (44_laws.md R173). -/
def Obligations.CanonicalGroupsAreTheEncodings : Prop :=
  ∀ ts : List Instr, ListModel.CanonicalGroup ts ↔
    ts = (ListModel.runs (ListModel.expand ts)).flatMap fun x => emitTokens x.1 x.2

/-- The size of ENC's output (44_laws.md R178): a row of `L >= 1` bytes takes 1 to `2 * L` bytes, the picture at most
`2 * L * H`. -/
def Obligations.EncodedSizeIsBounded : Prop :=
  ∀ (W H L : Nat) (pad : Nat → Nat → Byte) (pic : Nat → Byte),
    (ListModel.encodeFrame pad pic W H L).length ≤ 2 * L * H ∧
    ∀ r, 1 ≤ L →
      1 ≤ (ListModel.encRow pad pic W L r).length ∧ (ListModel.encRow pad pic W L r).length ≤ 2 * L

/-- DECODE's writes and reads (44_laws.md R177, R179): at most `W * H` bytes are written, exactly so many when `L >= W`; what is
read is the front of the source, at most `2 * L * H` bytes. -/
def Obligations.DecodedSizeIsBounded : Prop :=
  ∀ (W H L : Nat) (s rest out : List Byte), ListModel.decodeFrame W H L s = some (rest, out) →
    out.length ≤ W * H ∧ (W ≤ L → out.length = W * H) ∧
    ∃ used, s = used ++ rest ∧ used.length ≤ 2 * L * H

/-- Zero values of the geometry (40_decoder.md R121, 41_encoder.md R152): no line, or empty lines, read and write nothing; a
width of 0 writes nothing. -/
def Obligations.ZeroGeometryDoesNothing : Prop :=
  ∀ (W H L : Nat) (pad : Nat → Nat → Byte) (pic : Nat → Byte) (s : List Byte),
    ListModel.decodeFrame W 0 L s = some (s, []) ∧ ListModel.decodeFrame W H 0 s = some (s, []) ∧
    (∀ rest out, ListModel.decodeFrame 0 H L s = some (rest, out) → out = []) ∧
    ListModel.encodeFrame pad pic W 0 L = [] ∧ ListModel.encodeFrame pad pic W H 0 = []

/-! ## Ports that do not answer -/

/-- A port that does not answer a call holds the block in the same state whenever it is due to advance: the source at a token fetch,
the buffer at a token's first write or at a pixel byte, the sink at a run to emit; and where the source never answers DECODE stays
in that state for ever, if the host makes no move (20_memory.md R57, 70_reset_and_hazards.md R246). That the hold stands before the whole token or the whole input
byte is the model's choice (log 20). -/
def Obligations.UnansweredPortHoldsTheBlock : Prop :=
  ∀ s : State,
    (BlockMoves s → s.stat = .busyDec → s.row < s.H.toNat → s.col < s.L.toNat → s.srcAnswers = false →
      step s = .next { s with inbox := s.inbox.tail }) ∧
    (∀ i rest, BlockMoves s → s.stat = .busyDec → s.row < s.H.toNat → s.col < s.L.toNat → s.col < s.W.toNat →
      decodeToken (s.src.drop s.srcPos) = .token i rest → s.pixAnswers = false →
      step s = .next { s with inbox := s.inbox.tail }) ∧
    (BlockMoves s → s.stat = .busyEnc → s.row < s.H.toNat → s.col < s.L.toNat → s.col < s.W.toNat →
      s.pixAnswers = false → step s = .next { s with inbox := s.inbox.tail }) ∧
    (∀ x, BlockMoves s → s.stat = .busyEnc → s.row < s.H.toNat → s.col < s.L.toNat → InByteIs s x → 0 < s.col →
      x ≠ s.rv → s.snkAnswers = false → step s = .next { s with inbox := s.inbox.tail }) ∧
    (BlockMoves s → s.stat = .busyEnc → s.row < s.H.toNat → s.L.toNat ≤ s.col → 0 < s.L.toNat →
      s.snkAnswers = false → step s = .next { s with inbox := s.inbox.tail }) ∧
    (∀ k, s.inbox = [] → s.stat = .busyDec → s.row < s.H.toNat → s.col < s.L.toNat → s.srcAnswers = false →
      runSteps k s = .next s)
end

