-- ==== Sys2Proof/Laws/Encoding.lean ====
section
/-! SUPPORT. The fields of a token's bytes (30_encoding.md R80 to R86). -/

namespace Sys2Proof

theorem isMarker_iff (b : Byte) : isMarker b = true ↔ 192 < b.toNat := decide_eq_true_iff

theorem isMarker_false_iff (b : Byte) : isMarker b = false ↔ b.toNat ≤ 192 := by
  rw [← Bool.not_eq_true, isMarker_iff]
  omega

/-- The literal rows split the bytes up to 192. -/
theorem literalOf_wellFormed {b : Byte} (h : b.toNat ≤ 192) : WellFormed (literalOf b) := by
  unfold literalOf WellFormed
  split
  · simpa [Instr.wellFormed]
  · split
    · simp only [Instr.wellFormed, decide_eq_true_eq]; omega
    · split
      · simp only [Instr.wellFormed, decide_eq_true_eq]; omega
      · rfl

theorem literalOf_isToken (b : Byte) : (literalOf b).isToken = true := by
  unfold literalOf; repeat' split
  all_goals rfl

theorem literalOf_weight (b : Byte) : weight (literalOf b) = 1 := by
  unfold literalOf; repeat' split
  all_goals rfl

theorem literalOf_length (b : Byte) : tokenLength (literalOf b) = 1 := by
  unfold literalOf; repeat' split
  all_goals rfl

/-- The value of a literal token is its byte. -/
theorem literalOf_value {b : Byte} (h : b.toNat ≤ 192) : tokenValue (literalOf b) = b := by
  unfold literalOf
  split
  · rfl
  · split
    · rfl
    · split
      · rfl
      · apply BitVec.eq_of_toNat_eq
        simp only [tokenValue, BitVec.toNat_ofNat]
        omega

/-- The byte of a literal token is the byte it was read from. -/
theorem literalOf_bytes {b : Byte} (h : b.toNat ≤ 192) : encodeToken (literalOf b) = [b] := by
  have hv := literalOf_value h
  revert hv
  unfold literalOf
  repeat' split
  all_goals simp [encodeToken, tokenValue]

theorem markerByte_toNat (n : BitVec 6) : (markerByte n).toNat = 192 + n.toNat := by
  have : ∀ k : Fin 64, (markerByte (BitVec.ofFin k)).toNat = 192 + k.val := by decide
  exact this n.toFin

theorem runLength_markerByte (n : BitVec 6) : runLength (markerByte n) = n := by
  have : ∀ k : Fin 64, runLength (markerByte (BitVec.ofFin k)) = BitVec.ofFin k := by decide
  exact this n.toFin

theorem and_0x3F_toNat (b : Byte) : (b &&& 0x3F#8).toNat = b.toNat % 64 := by
  rw [BitVec.toNat_and]
  exact Nat.and_two_pow_sub_one_eq_mod b.toNat 6

theorem runLength_toNat (b : Byte) : (runLength b).toNat = (b &&& 0x3F#8).toNat := by
  rw [runLength, BitVec.toNat_setWidth, and_0x3F_toNat]
  omega

theorem runLength_of_marker {b : Byte} (h : 192 < b.toNat) : (runLength b).toNat = b.toNat - 192 := by
  rw [runLength_toNat, and_0x3F_toNat]
  omega

theorem markerByte_runLength {b : Byte} (h : 192 < b.toNat) : markerByte (runLength b) = b := by
  apply BitVec.eq_of_toNat_eq
  rw [markerByte_toNat, runLength_of_marker h]
  omega

theorem runLength_ne_zero {b : Byte} (h : 192 < b.toNat) : runLength b ≠ 0 := by
  intro h0
  have := runLength_of_marker h
  rw [h0] at this
  simp at this
  omega

theorem isMarker_markerByte {n : BitVec 6} (h : n ≠ 0) : isMarker (markerByte n) = true := by
  rw [isMarker_iff, markerByte_toNat]
  have : n.toNat ≠ 0 := fun h0 => h (BitVec.eq_of_toNat_eq (by simpa using h0))
  omega

/-- The decoder on a first byte up to 192. -/
theorem decodeToken_literal {b : Byte} (rest : List Byte) (h : b.toNat ≤ 192) :
    decodeToken (b :: rest) = .token (literalOf b) rest := by
  simp [decodeToken, (isMarker_false_iff b).mpr h]

/-- The decoder on a marker byte and a value byte. -/
theorem decodeToken_run {b : Byte} (v : Byte) (rest : List Byte) (h : 192 < b.toNat) :
    decodeToken (b :: v :: rest) = .token (.run (runLength b) v) rest := by
  simp [decodeToken, (isMarker_iff b).mpr h]

/-- The decoder on a lone marker byte. -/
theorem decodeToken_marker_only {b : Byte} (h : 192 < b.toNat) : decodeToken [b] = .eofValue := by
  simp [decodeToken, (isMarker_iff b).mpr h]

end Sys2Proof
end

