-- ==== Sys2Proof/Laws/State.lean ====
section
/-! SUPPORT. The fields of a state after each shared update, one lemma a field, true by unfolding; and memory at reset. -/

namespace Sys2Proof.Machine

/-! ## setResults -/

@[simp] theorem setResults_width (o : Bool) (c : Cause) (k : Nat) (s : State) : (setResults o c k s).width = s.width := rfl
@[simp] theorem setResults_height (o : Bool) (c : Cause) (k : Nat) (s : State) : (setResults o c k s).height = s.height := rfl
@[simp] theorem setResults_bpl (o : Bool) (c : Cause) (k : Nat) (s : State) : (setResults o c k s).bpl = s.bpl := rfl
@[simp] theorem setResults_widthSet (o : Bool) (c : Cause) (k : Nat) (s : State) : (setResults o c k s).widthSet = s.widthSet := rfl
@[simp] theorem setResults_heightSet (o : Bool) (c : Cause) (k : Nat) (s : State) : (setResults o c k s).heightSet = s.heightSet := rfl
@[simp] theorem setResults_bplSet (o : Bool) (c : Cause) (k : Nat) (s : State) : (setResults o c k s).bplSet = s.bplSet := rfl
@[simp] theorem setResults_W (o : Bool) (c : Cause) (k : Nat) (s : State) : (setResults o c k s).W = s.W := rfl
@[simp] theorem setResults_H (o : Bool) (c : Cause) (k : Nat) (s : State) : (setResults o c k s).H = s.H := rfl
@[simp] theorem setResults_L (o : Bool) (c : Cause) (k : Nat) (s : State) : (setResults o c k s).L = s.L := rfl
@[simp] theorem setResults_row (o : Bool) (c : Cause) (k : Nat) (s : State) : (setResults o c k s).row = s.row := rfl
@[simp] theorem setResults_col (o : Bool) (c : Cause) (k : Nat) (s : State) : (setResults o c k s).col = s.col := rfl
@[simp] theorem setResults_wp (o : Bool) (c : Cause) (k : Nat) (s : State) : (setResults o c k s).wp = s.wp := rfl
@[simp] theorem setResults_b (o : Bool) (c : Cause) (k : Nat) (s : State) : (setResults o c k s).b = s.b := rfl
@[simp] theorem setResults_n (o : Bool) (c : Cause) (k : Nat) (s : State) : (setResults o c k s).n = s.n := rfl
@[simp] theorem setResults_v (o : Bool) (c : Cause) (k : Nat) (s : State) : (setResults o c k s).v = s.v := rfl
@[simp] theorem setResults_rv (o : Bool) (c : Cause) (k : Nat) (s : State) : (setResults o c k s).rv = s.rv := rfl
@[simp] theorem setResults_rl (o : Bool) (c : Cause) (k : Nat) (s : State) : (setResults o c k s).rl = s.rl := rfl
@[simp] theorem setResults_cnt (o : Bool) (c : Cause) (k : Nat) (s : State) : (setResults o c k s).cnt = s.cnt := rfl
@[simp] theorem setResults_p (o : Bool) (c : Cause) (k : Nat) (s : State) : (setResults o c k s).p = s.p := rfl
@[simp] theorem setResults_stat (o : Bool) (c : Cause) (k : Nat) (s : State) : (setResults o c k s).stat = s.stat := rfl
@[simp] theorem setResults_ok (o : Bool) (c : Cause) (k : Nat) (s : State) : (setResults o c k s).ok = o := rfl
@[simp] theorem setResults_count (o : Bool) (c : Cause) (k : Nat) (s : State) : (setResults o c k s).count = k := rfl
@[simp] theorem setResults_cause (o : Bool) (c : Cause) (k : Nat) (s : State) : (setResults o c k s).cause = c := rfl
@[simp] theorem setResults_pix (o : Bool) (c : Cause) (k : Nat) (s : State) : (setResults o c k s).pix = s.pix := rfl
@[simp] theorem setResults_pixSize (o : Bool) (c : Cause) (k : Nat) (s : State) : (setResults o c k s).pixSize = s.pixSize := rfl
@[simp] theorem setResults_src (o : Bool) (c : Cause) (k : Nat) (s : State) : (setResults o c k s).src = s.src := rfl
@[simp] theorem setResults_srcPos (o : Bool) (c : Cause) (k : Nat) (s : State) : (setResults o c k s).srcPos = s.srcPos := rfl
@[simp] theorem setResults_snk (o : Bool) (c : Cause) (k : Nat) (s : State) : (setResults o c k s).snk = s.snk := rfl
@[simp] theorem setResults_disjoint (o : Bool) (c : Cause) (k : Nat) (s : State) : (setResults o c k s).disjoint = s.disjoint := rfl
@[simp] theorem setResults_srcAnswers (o : Bool) (c : Cause) (k : Nat) (s : State) : (setResults o c k s).srcAnswers = s.srcAnswers := rfl
@[simp] theorem setResults_snkAnswers (o : Bool) (c : Cause) (k : Nat) (s : State) : (setResults o c k s).snkAnswers = s.snkAnswers := rfl
@[simp] theorem setResults_pixAnswers (o : Bool) (c : Cause) (k : Nat) (s : State) : (setResults o c k s).pixAnswers = s.pixAnswers := rfl
@[simp] theorem setResults_inbox (o : Bool) (c : Cause) (k : Nat) (s : State) : (setResults o c k s).inbox = s.inbox := rfl
@[simp] theorem setResults_draws (o : Bool) (c : Cause) (k : Nat) (s : State) : (setResults o c k s).draws = s.draws := rfl

/-! ## freeResults -/

@[simp] theorem freeResults_width (s : State) : (freeResults s).width = s.width := rfl
@[simp] theorem freeResults_height (s : State) : (freeResults s).height = s.height := rfl
@[simp] theorem freeResults_bpl (s : State) : (freeResults s).bpl = s.bpl := rfl
@[simp] theorem freeResults_widthSet (s : State) : (freeResults s).widthSet = s.widthSet := rfl
@[simp] theorem freeResults_heightSet (s : State) : (freeResults s).heightSet = s.heightSet := rfl
@[simp] theorem freeResults_bplSet (s : State) : (freeResults s).bplSet = s.bplSet := rfl
@[simp] theorem freeResults_W (s : State) : (freeResults s).W = s.W := rfl
@[simp] theorem freeResults_H (s : State) : (freeResults s).H = s.H := rfl
@[simp] theorem freeResults_L (s : State) : (freeResults s).L = s.L := rfl
@[simp] theorem freeResults_row (s : State) : (freeResults s).row = s.row := rfl
@[simp] theorem freeResults_col (s : State) : (freeResults s).col = s.col := rfl
@[simp] theorem freeResults_wp (s : State) : (freeResults s).wp = s.wp := rfl
@[simp] theorem freeResults_b (s : State) : (freeResults s).b = s.b := rfl
@[simp] theorem freeResults_n (s : State) : (freeResults s).n = s.n := rfl
@[simp] theorem freeResults_v (s : State) : (freeResults s).v = s.v := rfl
@[simp] theorem freeResults_rv (s : State) : (freeResults s).rv = s.rv := rfl
@[simp] theorem freeResults_rl (s : State) : (freeResults s).rl = s.rl := rfl
@[simp] theorem freeResults_cnt (s : State) : (freeResults s).cnt = s.cnt := rfl
@[simp] theorem freeResults_p (s : State) : (freeResults s).p = s.p := rfl
@[simp] theorem freeResults_stat (s : State) : (freeResults s).stat = s.stat := rfl
@[simp] theorem freeResults_ok (s : State) : (freeResults s).ok = Config.freeOk s.draws := rfl
@[simp] theorem freeResults_count (s : State) : (freeResults s).count = Config.freeCount s.draws := rfl
@[simp] theorem freeResults_cause (s : State) : (freeResults s).cause = Config.freeCause s.draws := rfl
@[simp] theorem freeResults_pix (s : State) : (freeResults s).pix = s.pix := rfl
@[simp] theorem freeResults_pixSize (s : State) : (freeResults s).pixSize = s.pixSize := rfl
@[simp] theorem freeResults_src (s : State) : (freeResults s).src = s.src := rfl
@[simp] theorem freeResults_srcPos (s : State) : (freeResults s).srcPos = s.srcPos := rfl
@[simp] theorem freeResults_snk (s : State) : (freeResults s).snk = s.snk := rfl
@[simp] theorem freeResults_disjoint (s : State) : (freeResults s).disjoint = s.disjoint := rfl
@[simp] theorem freeResults_srcAnswers (s : State) : (freeResults s).srcAnswers = s.srcAnswers := rfl
@[simp] theorem freeResults_snkAnswers (s : State) : (freeResults s).snkAnswers = s.snkAnswers := rfl
@[simp] theorem freeResults_pixAnswers (s : State) : (freeResults s).pixAnswers = s.pixAnswers := rfl
@[simp] theorem freeResults_inbox (s : State) : (freeResults s).inbox = s.inbox := rfl
@[simp] theorem freeResults_draws (s : State) : (freeResults s).draws = s.draws + 1 := rfl

/-! ## srcAdvance -/

@[simp] theorem srcAdvance_width (s : State) : (srcAdvance s).width = s.width := rfl
@[simp] theorem srcAdvance_height (s : State) : (srcAdvance s).height = s.height := rfl
@[simp] theorem srcAdvance_bpl (s : State) : (srcAdvance s).bpl = s.bpl := rfl
@[simp] theorem srcAdvance_widthSet (s : State) : (srcAdvance s).widthSet = s.widthSet := rfl
@[simp] theorem srcAdvance_heightSet (s : State) : (srcAdvance s).heightSet = s.heightSet := rfl
@[simp] theorem srcAdvance_bplSet (s : State) : (srcAdvance s).bplSet = s.bplSet := rfl
@[simp] theorem srcAdvance_W (s : State) : (srcAdvance s).W = s.W := rfl
@[simp] theorem srcAdvance_H (s : State) : (srcAdvance s).H = s.H := rfl
@[simp] theorem srcAdvance_L (s : State) : (srcAdvance s).L = s.L := rfl
@[simp] theorem srcAdvance_row (s : State) : (srcAdvance s).row = s.row := rfl
@[simp] theorem srcAdvance_col (s : State) : (srcAdvance s).col = s.col := rfl
@[simp] theorem srcAdvance_wp (s : State) : (srcAdvance s).wp = s.wp := rfl
@[simp] theorem srcAdvance_b (s : State) : (srcAdvance s).b = s.b := rfl
@[simp] theorem srcAdvance_n (s : State) : (srcAdvance s).n = s.n := rfl
@[simp] theorem srcAdvance_v (s : State) : (srcAdvance s).v = s.v := rfl
@[simp] theorem srcAdvance_rv (s : State) : (srcAdvance s).rv = s.rv := rfl
@[simp] theorem srcAdvance_rl (s : State) : (srcAdvance s).rl = s.rl := rfl
@[simp] theorem srcAdvance_cnt (s : State) : (srcAdvance s).cnt = s.cnt := rfl
@[simp] theorem srcAdvance_p (s : State) : (srcAdvance s).p = s.p := rfl
@[simp] theorem srcAdvance_stat (s : State) : (srcAdvance s).stat = s.stat := rfl
@[simp] theorem srcAdvance_ok (s : State) : (srcAdvance s).ok = s.ok := rfl
@[simp] theorem srcAdvance_count (s : State) : (srcAdvance s).count = s.count := rfl
@[simp] theorem srcAdvance_cause (s : State) : (srcAdvance s).cause = s.cause := rfl
@[simp] theorem srcAdvance_pix (s : State) : (srcAdvance s).pix = s.pix := rfl
@[simp] theorem srcAdvance_pixSize (s : State) : (srcAdvance s).pixSize = s.pixSize := rfl
@[simp] theorem srcAdvance_src (s : State) : (srcAdvance s).src = s.src := rfl
@[simp] theorem srcAdvance_srcPos (s : State) : (srcAdvance s).srcPos = s.srcPos + 1 := rfl
@[simp] theorem srcAdvance_snk (s : State) : (srcAdvance s).snk = s.snk := rfl
@[simp] theorem srcAdvance_disjoint (s : State) : (srcAdvance s).disjoint = s.disjoint := rfl
@[simp] theorem srcAdvance_srcAnswers (s : State) : (srcAdvance s).srcAnswers = s.srcAnswers := rfl
@[simp] theorem srcAdvance_snkAnswers (s : State) : (srcAdvance s).snkAnswers = s.snkAnswers := rfl
@[simp] theorem srcAdvance_pixAnswers (s : State) : (srcAdvance s).pixAnswers = s.pixAnswers := rfl
@[simp] theorem srcAdvance_inbox (s : State) : (srcAdvance s).inbox = s.inbox := rfl
@[simp] theorem srcAdvance_draws (s : State) : (srcAdvance s).draws = s.draws := rfl

/-! ## firstByteRead -/

@[simp] theorem firstByteRead_width (x : Byte) (s : State) : (firstByteRead x s).width = s.width := rfl
@[simp] theorem firstByteRead_height (x : Byte) (s : State) : (firstByteRead x s).height = s.height := rfl
@[simp] theorem firstByteRead_bpl (x : Byte) (s : State) : (firstByteRead x s).bpl = s.bpl := rfl
@[simp] theorem firstByteRead_widthSet (x : Byte) (s : State) : (firstByteRead x s).widthSet = s.widthSet := rfl
@[simp] theorem firstByteRead_heightSet (x : Byte) (s : State) : (firstByteRead x s).heightSet = s.heightSet := rfl
@[simp] theorem firstByteRead_bplSet (x : Byte) (s : State) : (firstByteRead x s).bplSet = s.bplSet := rfl
@[simp] theorem firstByteRead_W (x : Byte) (s : State) : (firstByteRead x s).W = s.W := rfl
@[simp] theorem firstByteRead_H (x : Byte) (s : State) : (firstByteRead x s).H = s.H := rfl
@[simp] theorem firstByteRead_L (x : Byte) (s : State) : (firstByteRead x s).L = s.L := rfl
@[simp] theorem firstByteRead_row (x : Byte) (s : State) : (firstByteRead x s).row = s.row := rfl
@[simp] theorem firstByteRead_col (x : Byte) (s : State) : (firstByteRead x s).col = s.col := rfl
@[simp] theorem firstByteRead_wp (x : Byte) (s : State) : (firstByteRead x s).wp = s.wp := rfl
@[simp] theorem firstByteRead_b (x : Byte) (s : State) : (firstByteRead x s).b = x := rfl
@[simp] theorem firstByteRead_n (x : Byte) (s : State) : (firstByteRead x s).n = s.n := rfl
@[simp] theorem firstByteRead_v (x : Byte) (s : State) : (firstByteRead x s).v = s.v := rfl
@[simp] theorem firstByteRead_rv (x : Byte) (s : State) : (firstByteRead x s).rv = s.rv := rfl
@[simp] theorem firstByteRead_rl (x : Byte) (s : State) : (firstByteRead x s).rl = s.rl := rfl
@[simp] theorem firstByteRead_cnt (x : Byte) (s : State) : (firstByteRead x s).cnt = s.cnt := rfl
@[simp] theorem firstByteRead_p (x : Byte) (s : State) : (firstByteRead x s).p = s.p := rfl
@[simp] theorem firstByteRead_stat (x : Byte) (s : State) : (firstByteRead x s).stat = s.stat := rfl
@[simp] theorem firstByteRead_ok (x : Byte) (s : State) : (firstByteRead x s).ok = s.ok := rfl
@[simp] theorem firstByteRead_count (x : Byte) (s : State) : (firstByteRead x s).count = s.count := rfl
@[simp] theorem firstByteRead_cause (x : Byte) (s : State) : (firstByteRead x s).cause = s.cause := rfl
@[simp] theorem firstByteRead_pix (x : Byte) (s : State) : (firstByteRead x s).pix = s.pix := rfl
@[simp] theorem firstByteRead_pixSize (x : Byte) (s : State) : (firstByteRead x s).pixSize = s.pixSize := rfl
@[simp] theorem firstByteRead_src (x : Byte) (s : State) : (firstByteRead x s).src = s.src := rfl
@[simp] theorem firstByteRead_srcPos (x : Byte) (s : State) : (firstByteRead x s).srcPos = s.srcPos + 1 := rfl
@[simp] theorem firstByteRead_snk (x : Byte) (s : State) : (firstByteRead x s).snk = s.snk := rfl
@[simp] theorem firstByteRead_disjoint (x : Byte) (s : State) : (firstByteRead x s).disjoint = s.disjoint := rfl
@[simp] theorem firstByteRead_srcAnswers (x : Byte) (s : State) : (firstByteRead x s).srcAnswers = s.srcAnswers := rfl
@[simp] theorem firstByteRead_snkAnswers (x : Byte) (s : State) : (firstByteRead x s).snkAnswers = s.snkAnswers := rfl
@[simp] theorem firstByteRead_pixAnswers (x : Byte) (s : State) : (firstByteRead x s).pixAnswers = s.pixAnswers := rfl
@[simp] theorem firstByteRead_inbox (x : Byte) (s : State) : (firstByteRead x s).inbox = s.inbox := rfl
@[simp] theorem firstByteRead_draws (x : Byte) (s : State) : (firstByteRead x s).draws = s.draws := rfl

/-! ## sinkWrite -/

@[simp] theorem sinkWrite_width (x : Byte) (s : State) : (sinkWrite x s).width = s.width := rfl
@[simp] theorem sinkWrite_height (x : Byte) (s : State) : (sinkWrite x s).height = s.height := rfl
@[simp] theorem sinkWrite_bpl (x : Byte) (s : State) : (sinkWrite x s).bpl = s.bpl := rfl
@[simp] theorem sinkWrite_widthSet (x : Byte) (s : State) : (sinkWrite x s).widthSet = s.widthSet := rfl
@[simp] theorem sinkWrite_heightSet (x : Byte) (s : State) : (sinkWrite x s).heightSet = s.heightSet := rfl
@[simp] theorem sinkWrite_bplSet (x : Byte) (s : State) : (sinkWrite x s).bplSet = s.bplSet := rfl
@[simp] theorem sinkWrite_W (x : Byte) (s : State) : (sinkWrite x s).W = s.W := rfl
@[simp] theorem sinkWrite_H (x : Byte) (s : State) : (sinkWrite x s).H = s.H := rfl
@[simp] theorem sinkWrite_L (x : Byte) (s : State) : (sinkWrite x s).L = s.L := rfl
@[simp] theorem sinkWrite_row (x : Byte) (s : State) : (sinkWrite x s).row = s.row := rfl
@[simp] theorem sinkWrite_col (x : Byte) (s : State) : (sinkWrite x s).col = s.col := rfl
@[simp] theorem sinkWrite_wp (x : Byte) (s : State) : (sinkWrite x s).wp = s.wp := rfl
@[simp] theorem sinkWrite_b (x : Byte) (s : State) : (sinkWrite x s).b = s.b := rfl
@[simp] theorem sinkWrite_n (x : Byte) (s : State) : (sinkWrite x s).n = s.n := rfl
@[simp] theorem sinkWrite_v (x : Byte) (s : State) : (sinkWrite x s).v = s.v := rfl
@[simp] theorem sinkWrite_rv (x : Byte) (s : State) : (sinkWrite x s).rv = s.rv := rfl
@[simp] theorem sinkWrite_rl (x : Byte) (s : State) : (sinkWrite x s).rl = s.rl := rfl
@[simp] theorem sinkWrite_cnt (x : Byte) (s : State) : (sinkWrite x s).cnt = s.cnt := rfl
@[simp] theorem sinkWrite_p (x : Byte) (s : State) : (sinkWrite x s).p = s.p := rfl
@[simp] theorem sinkWrite_stat (x : Byte) (s : State) : (sinkWrite x s).stat = s.stat := rfl
@[simp] theorem sinkWrite_ok (x : Byte) (s : State) : (sinkWrite x s).ok = s.ok := rfl
@[simp] theorem sinkWrite_count (x : Byte) (s : State) : (sinkWrite x s).count = s.count := rfl
@[simp] theorem sinkWrite_cause (x : Byte) (s : State) : (sinkWrite x s).cause = s.cause := rfl
@[simp] theorem sinkWrite_pix (x : Byte) (s : State) : (sinkWrite x s).pix = s.pix := rfl
@[simp] theorem sinkWrite_pixSize (x : Byte) (s : State) : (sinkWrite x s).pixSize = s.pixSize := rfl
@[simp] theorem sinkWrite_src (x : Byte) (s : State) : (sinkWrite x s).src = s.src := rfl
@[simp] theorem sinkWrite_srcPos (x : Byte) (s : State) : (sinkWrite x s).srcPos = s.srcPos := rfl
@[simp] theorem sinkWrite_snk (x : Byte) (s : State) : (sinkWrite x s).snk = s.snk ++ [x] := rfl
@[simp] theorem sinkWrite_disjoint (x : Byte) (s : State) : (sinkWrite x s).disjoint = s.disjoint := rfl
@[simp] theorem sinkWrite_srcAnswers (x : Byte) (s : State) : (sinkWrite x s).srcAnswers = s.srcAnswers := rfl
@[simp] theorem sinkWrite_snkAnswers (x : Byte) (s : State) : (sinkWrite x s).snkAnswers = s.snkAnswers := rfl
@[simp] theorem sinkWrite_pixAnswers (x : Byte) (s : State) : (sinkWrite x s).pixAnswers = s.pixAnswers := rfl
@[simp] theorem sinkWrite_inbox (x : Byte) (s : State) : (sinkWrite x s).inbox = s.inbox := rfl
@[simp] theorem sinkWrite_draws (x : Byte) (s : State) : (sinkWrite x s).draws = s.draws := rfl

/-! ## setToken -/

@[simp] theorem setToken_width (k : BitVec 6) (x : Byte) (s : State) : (setToken k x s).width = s.width := rfl
@[simp] theorem setToken_height (k : BitVec 6) (x : Byte) (s : State) : (setToken k x s).height = s.height := rfl
@[simp] theorem setToken_bpl (k : BitVec 6) (x : Byte) (s : State) : (setToken k x s).bpl = s.bpl := rfl
@[simp] theorem setToken_widthSet (k : BitVec 6) (x : Byte) (s : State) : (setToken k x s).widthSet = s.widthSet := rfl
@[simp] theorem setToken_heightSet (k : BitVec 6) (x : Byte) (s : State) : (setToken k x s).heightSet = s.heightSet := rfl
@[simp] theorem setToken_bplSet (k : BitVec 6) (x : Byte) (s : State) : (setToken k x s).bplSet = s.bplSet := rfl
@[simp] theorem setToken_W (k : BitVec 6) (x : Byte) (s : State) : (setToken k x s).W = s.W := rfl
@[simp] theorem setToken_H (k : BitVec 6) (x : Byte) (s : State) : (setToken k x s).H = s.H := rfl
@[simp] theorem setToken_L (k : BitVec 6) (x : Byte) (s : State) : (setToken k x s).L = s.L := rfl
@[simp] theorem setToken_row (k : BitVec 6) (x : Byte) (s : State) : (setToken k x s).row = s.row := rfl
@[simp] theorem setToken_col (k : BitVec 6) (x : Byte) (s : State) : (setToken k x s).col = s.col := rfl
@[simp] theorem setToken_wp (k : BitVec 6) (x : Byte) (s : State) : (setToken k x s).wp = s.wp := rfl
@[simp] theorem setToken_b (k : BitVec 6) (x : Byte) (s : State) : (setToken k x s).b = s.b := rfl
@[simp] theorem setToken_n (k : BitVec 6) (x : Byte) (s : State) : (setToken k x s).n = k := rfl
@[simp] theorem setToken_v (k : BitVec 6) (x : Byte) (s : State) : (setToken k x s).v = x := rfl
@[simp] theorem setToken_rv (k : BitVec 6) (x : Byte) (s : State) : (setToken k x s).rv = s.rv := rfl
@[simp] theorem setToken_rl (k : BitVec 6) (x : Byte) (s : State) : (setToken k x s).rl = s.rl := rfl
@[simp] theorem setToken_cnt (k : BitVec 6) (x : Byte) (s : State) : (setToken k x s).cnt = s.cnt := rfl
@[simp] theorem setToken_p (k : BitVec 6) (x : Byte) (s : State) : (setToken k x s).p = s.p := rfl
@[simp] theorem setToken_stat (k : BitVec 6) (x : Byte) (s : State) : (setToken k x s).stat = s.stat := rfl
@[simp] theorem setToken_ok (k : BitVec 6) (x : Byte) (s : State) : (setToken k x s).ok = s.ok := rfl
@[simp] theorem setToken_count (k : BitVec 6) (x : Byte) (s : State) : (setToken k x s).count = s.count := rfl
@[simp] theorem setToken_cause (k : BitVec 6) (x : Byte) (s : State) : (setToken k x s).cause = s.cause := rfl
@[simp] theorem setToken_pix (k : BitVec 6) (x : Byte) (s : State) : (setToken k x s).pix = s.pix := rfl
@[simp] theorem setToken_pixSize (k : BitVec 6) (x : Byte) (s : State) : (setToken k x s).pixSize = s.pixSize := rfl
@[simp] theorem setToken_src (k : BitVec 6) (x : Byte) (s : State) : (setToken k x s).src = s.src := rfl
@[simp] theorem setToken_srcPos (k : BitVec 6) (x : Byte) (s : State) : (setToken k x s).srcPos = s.srcPos := rfl
@[simp] theorem setToken_snk (k : BitVec 6) (x : Byte) (s : State) : (setToken k x s).snk = s.snk := rfl
@[simp] theorem setToken_disjoint (k : BitVec 6) (x : Byte) (s : State) : (setToken k x s).disjoint = s.disjoint := rfl
@[simp] theorem setToken_srcAnswers (k : BitVec 6) (x : Byte) (s : State) : (setToken k x s).srcAnswers = s.srcAnswers := rfl
@[simp] theorem setToken_snkAnswers (k : BitVec 6) (x : Byte) (s : State) : (setToken k x s).snkAnswers = s.snkAnswers := rfl
@[simp] theorem setToken_pixAnswers (k : BitVec 6) (x : Byte) (s : State) : (setToken k x s).pixAnswers = s.pixAnswers := rfl
@[simp] theorem setToken_inbox (k : BitVec 6) (x : Byte) (s : State) : (setToken k x s).inbox = s.inbox := rfl
@[simp] theorem setToken_draws (k : BitVec 6) (x : Byte) (s : State) : (setToken k x s).draws = s.draws := rfl

/-! ## markerRead -/

@[simp] theorem markerRead_width (x : Byte) (s : State) : (markerRead x s).width = s.width := rfl
@[simp] theorem markerRead_height (x : Byte) (s : State) : (markerRead x s).height = s.height := rfl
@[simp] theorem markerRead_bpl (x : Byte) (s : State) : (markerRead x s).bpl = s.bpl := rfl
@[simp] theorem markerRead_widthSet (x : Byte) (s : State) : (markerRead x s).widthSet = s.widthSet := rfl
@[simp] theorem markerRead_heightSet (x : Byte) (s : State) : (markerRead x s).heightSet = s.heightSet := rfl
@[simp] theorem markerRead_bplSet (x : Byte) (s : State) : (markerRead x s).bplSet = s.bplSet := rfl
@[simp] theorem markerRead_W (x : Byte) (s : State) : (markerRead x s).W = s.W := rfl
@[simp] theorem markerRead_H (x : Byte) (s : State) : (markerRead x s).H = s.H := rfl
@[simp] theorem markerRead_L (x : Byte) (s : State) : (markerRead x s).L = s.L := rfl
@[simp] theorem markerRead_row (x : Byte) (s : State) : (markerRead x s).row = s.row := rfl
@[simp] theorem markerRead_col (x : Byte) (s : State) : (markerRead x s).col = s.col := rfl
@[simp] theorem markerRead_wp (x : Byte) (s : State) : (markerRead x s).wp = s.wp := rfl
@[simp] theorem markerRead_b (x : Byte) (s : State) : (markerRead x s).b = x := rfl
@[simp] theorem markerRead_n (x : Byte) (s : State) : (markerRead x s).n = runLength x := rfl
@[simp] theorem markerRead_v (x : Byte) (s : State) : (markerRead x s).v = s.v := rfl
@[simp] theorem markerRead_rv (x : Byte) (s : State) : (markerRead x s).rv = s.rv := rfl
@[simp] theorem markerRead_rl (x : Byte) (s : State) : (markerRead x s).rl = s.rl := rfl
@[simp] theorem markerRead_cnt (x : Byte) (s : State) : (markerRead x s).cnt = s.cnt := rfl
@[simp] theorem markerRead_p (x : Byte) (s : State) : (markerRead x s).p = s.p := rfl
@[simp] theorem markerRead_stat (x : Byte) (s : State) : (markerRead x s).stat = s.stat := rfl
@[simp] theorem markerRead_ok (x : Byte) (s : State) : (markerRead x s).ok = s.ok := rfl
@[simp] theorem markerRead_count (x : Byte) (s : State) : (markerRead x s).count = s.count := rfl
@[simp] theorem markerRead_cause (x : Byte) (s : State) : (markerRead x s).cause = s.cause := rfl
@[simp] theorem markerRead_pix (x : Byte) (s : State) : (markerRead x s).pix = s.pix := rfl
@[simp] theorem markerRead_pixSize (x : Byte) (s : State) : (markerRead x s).pixSize = s.pixSize := rfl
@[simp] theorem markerRead_src (x : Byte) (s : State) : (markerRead x s).src = s.src := rfl
@[simp] theorem markerRead_srcPos (x : Byte) (s : State) : (markerRead x s).srcPos = s.srcPos + 1 := rfl
@[simp] theorem markerRead_snk (x : Byte) (s : State) : (markerRead x s).snk = s.snk := rfl
@[simp] theorem markerRead_disjoint (x : Byte) (s : State) : (markerRead x s).disjoint = s.disjoint := rfl
@[simp] theorem markerRead_srcAnswers (x : Byte) (s : State) : (markerRead x s).srcAnswers = s.srcAnswers := rfl
@[simp] theorem markerRead_snkAnswers (x : Byte) (s : State) : (markerRead x s).snkAnswers = s.snkAnswers := rfl
@[simp] theorem markerRead_pixAnswers (x : Byte) (s : State) : (markerRead x s).pixAnswers = s.pixAnswers := rfl
@[simp] theorem markerRead_inbox (x : Byte) (s : State) : (markerRead x s).inbox = s.inbox := rfl
@[simp] theorem markerRead_draws (x : Byte) (s : State) : (markerRead x s).draws = s.draws := rfl

/-! ## raiseSourceExhausted -/

@[simp] theorem raiseSourceExhausted_width (c : Cause) (s : State) : (raiseSourceExhausted c s).width = s.width := rfl
@[simp] theorem raiseSourceExhausted_height (c : Cause) (s : State) : (raiseSourceExhausted c s).height = s.height := rfl
@[simp] theorem raiseSourceExhausted_bpl (c : Cause) (s : State) : (raiseSourceExhausted c s).bpl = s.bpl := rfl
@[simp] theorem raiseSourceExhausted_widthSet (c : Cause) (s : State) : (raiseSourceExhausted c s).widthSet = s.widthSet := rfl
@[simp] theorem raiseSourceExhausted_heightSet (c : Cause) (s : State) : (raiseSourceExhausted c s).heightSet = s.heightSet := rfl
@[simp] theorem raiseSourceExhausted_bplSet (c : Cause) (s : State) : (raiseSourceExhausted c s).bplSet = s.bplSet := rfl
@[simp] theorem raiseSourceExhausted_W (c : Cause) (s : State) : (raiseSourceExhausted c s).W = s.W := rfl
@[simp] theorem raiseSourceExhausted_H (c : Cause) (s : State) : (raiseSourceExhausted c s).H = s.H := rfl
@[simp] theorem raiseSourceExhausted_L (c : Cause) (s : State) : (raiseSourceExhausted c s).L = s.L := rfl
@[simp] theorem raiseSourceExhausted_row (c : Cause) (s : State) : (raiseSourceExhausted c s).row = s.row := rfl
@[simp] theorem raiseSourceExhausted_col (c : Cause) (s : State) : (raiseSourceExhausted c s).col = s.col := rfl
@[simp] theorem raiseSourceExhausted_wp (c : Cause) (s : State) : (raiseSourceExhausted c s).wp = s.wp := rfl
@[simp] theorem raiseSourceExhausted_b (c : Cause) (s : State) : (raiseSourceExhausted c s).b = s.b := rfl
@[simp] theorem raiseSourceExhausted_n (c : Cause) (s : State) : (raiseSourceExhausted c s).n = s.n := rfl
@[simp] theorem raiseSourceExhausted_v (c : Cause) (s : State) : (raiseSourceExhausted c s).v = s.v := rfl
@[simp] theorem raiseSourceExhausted_rv (c : Cause) (s : State) : (raiseSourceExhausted c s).rv = s.rv := rfl
@[simp] theorem raiseSourceExhausted_rl (c : Cause) (s : State) : (raiseSourceExhausted c s).rl = s.rl := rfl
@[simp] theorem raiseSourceExhausted_cnt (c : Cause) (s : State) : (raiseSourceExhausted c s).cnt = s.cnt := rfl
@[simp] theorem raiseSourceExhausted_p (c : Cause) (s : State) : (raiseSourceExhausted c s).p = s.p := rfl
@[simp] theorem raiseSourceExhausted_stat (c : Cause) (s : State) : (raiseSourceExhausted c s).stat = .idle := rfl
@[simp] theorem raiseSourceExhausted_ok (c : Cause) (s : State) : (raiseSourceExhausted c s).ok = false := rfl
@[simp] theorem raiseSourceExhausted_count (c : Cause) (s : State) : (raiseSourceExhausted c s).count = 0 := rfl
@[simp] theorem raiseSourceExhausted_cause (c : Cause) (s : State) : (raiseSourceExhausted c s).cause = c := rfl
@[simp] theorem raiseSourceExhausted_pix (c : Cause) (s : State) : (raiseSourceExhausted c s).pix = s.pix := rfl
@[simp] theorem raiseSourceExhausted_pixSize (c : Cause) (s : State) : (raiseSourceExhausted c s).pixSize = s.pixSize := rfl
@[simp] theorem raiseSourceExhausted_src (c : Cause) (s : State) : (raiseSourceExhausted c s).src = s.src := rfl
@[simp] theorem raiseSourceExhausted_srcPos (c : Cause) (s : State) : (raiseSourceExhausted c s).srcPos = s.srcPos := rfl
@[simp] theorem raiseSourceExhausted_snk (c : Cause) (s : State) : (raiseSourceExhausted c s).snk = s.snk := rfl
@[simp] theorem raiseSourceExhausted_disjoint (c : Cause) (s : State) : (raiseSourceExhausted c s).disjoint = s.disjoint := rfl
@[simp] theorem raiseSourceExhausted_srcAnswers (c : Cause) (s : State) : (raiseSourceExhausted c s).srcAnswers = s.srcAnswers := rfl
@[simp] theorem raiseSourceExhausted_snkAnswers (c : Cause) (s : State) : (raiseSourceExhausted c s).snkAnswers = s.snkAnswers := rfl
@[simp] theorem raiseSourceExhausted_pixAnswers (c : Cause) (s : State) : (raiseSourceExhausted c s).pixAnswers = s.pixAnswers := rfl
@[simp] theorem raiseSourceExhausted_inbox (c : Cause) (s : State) : (raiseSourceExhausted c s).inbox = s.inbox := rfl
@[simp] theorem raiseSourceExhausted_draws (c : Cause) (s : State) : (raiseSourceExhausted c s).draws = s.draws := rfl

/-! ## finishDecode -/

@[simp] theorem finishDecode_width (s : State) : (finishDecode s).width = s.width := rfl
@[simp] theorem finishDecode_height (s : State) : (finishDecode s).height = s.height := rfl
@[simp] theorem finishDecode_bpl (s : State) : (finishDecode s).bpl = s.bpl := rfl
@[simp] theorem finishDecode_widthSet (s : State) : (finishDecode s).widthSet = s.widthSet := rfl
@[simp] theorem finishDecode_heightSet (s : State) : (finishDecode s).heightSet = s.heightSet := rfl
@[simp] theorem finishDecode_bplSet (s : State) : (finishDecode s).bplSet = s.bplSet := rfl
@[simp] theorem finishDecode_W (s : State) : (finishDecode s).W = s.W := rfl
@[simp] theorem finishDecode_H (s : State) : (finishDecode s).H = s.H := rfl
@[simp] theorem finishDecode_L (s : State) : (finishDecode s).L = s.L := rfl
@[simp] theorem finishDecode_row (s : State) : (finishDecode s).row = s.row := rfl
@[simp] theorem finishDecode_col (s : State) : (finishDecode s).col = s.col := rfl
@[simp] theorem finishDecode_wp (s : State) : (finishDecode s).wp = s.wp := rfl
@[simp] theorem finishDecode_b (s : State) : (finishDecode s).b = s.b := rfl
@[simp] theorem finishDecode_n (s : State) : (finishDecode s).n = s.n := rfl
@[simp] theorem finishDecode_v (s : State) : (finishDecode s).v = s.v := rfl
@[simp] theorem finishDecode_rv (s : State) : (finishDecode s).rv = s.rv := rfl
@[simp] theorem finishDecode_rl (s : State) : (finishDecode s).rl = s.rl := rfl
@[simp] theorem finishDecode_cnt (s : State) : (finishDecode s).cnt = s.cnt := rfl
@[simp] theorem finishDecode_p (s : State) : (finishDecode s).p = s.p := rfl
@[simp] theorem finishDecode_stat (s : State) : (finishDecode s).stat = .idle := rfl
@[simp] theorem finishDecode_ok (s : State) : (finishDecode s).ok = true := rfl
@[simp] theorem finishDecode_count (s : State) : (finishDecode s).count = 0 := rfl
@[simp] theorem finishDecode_cause (s : State) : (finishDecode s).cause = .none := rfl
@[simp] theorem finishDecode_pix (s : State) : (finishDecode s).pix = s.pix := rfl
@[simp] theorem finishDecode_pixSize (s : State) : (finishDecode s).pixSize = s.pixSize := rfl
@[simp] theorem finishDecode_src (s : State) : (finishDecode s).src = s.src := rfl
@[simp] theorem finishDecode_srcPos (s : State) : (finishDecode s).srcPos = s.srcPos := rfl
@[simp] theorem finishDecode_snk (s : State) : (finishDecode s).snk = s.snk := rfl
@[simp] theorem finishDecode_disjoint (s : State) : (finishDecode s).disjoint = s.disjoint := rfl
@[simp] theorem finishDecode_srcAnswers (s : State) : (finishDecode s).srcAnswers = s.srcAnswers := rfl
@[simp] theorem finishDecode_snkAnswers (s : State) : (finishDecode s).snkAnswers = s.snkAnswers := rfl
@[simp] theorem finishDecode_pixAnswers (s : State) : (finishDecode s).pixAnswers = s.pixAnswers := rfl
@[simp] theorem finishDecode_inbox (s : State) : (finishDecode s).inbox = s.inbox := rfl
@[simp] theorem finishDecode_draws (s : State) : (finishDecode s).draws = s.draws := rfl

/-! ## finishEncode -/

@[simp] theorem finishEncode_width (s : State) : (finishEncode s).width = s.width := rfl
@[simp] theorem finishEncode_height (s : State) : (finishEncode s).height = s.height := rfl
@[simp] theorem finishEncode_bpl (s : State) : (finishEncode s).bpl = s.bpl := rfl
@[simp] theorem finishEncode_widthSet (s : State) : (finishEncode s).widthSet = s.widthSet := rfl
@[simp] theorem finishEncode_heightSet (s : State) : (finishEncode s).heightSet = s.heightSet := rfl
@[simp] theorem finishEncode_bplSet (s : State) : (finishEncode s).bplSet = s.bplSet := rfl
@[simp] theorem finishEncode_W (s : State) : (finishEncode s).W = s.W := rfl
@[simp] theorem finishEncode_H (s : State) : (finishEncode s).H = s.H := rfl
@[simp] theorem finishEncode_L (s : State) : (finishEncode s).L = s.L := rfl
@[simp] theorem finishEncode_row (s : State) : (finishEncode s).row = s.row := rfl
@[simp] theorem finishEncode_col (s : State) : (finishEncode s).col = s.col := rfl
@[simp] theorem finishEncode_wp (s : State) : (finishEncode s).wp = s.wp := rfl
@[simp] theorem finishEncode_b (s : State) : (finishEncode s).b = s.b := rfl
@[simp] theorem finishEncode_n (s : State) : (finishEncode s).n = s.n := rfl
@[simp] theorem finishEncode_v (s : State) : (finishEncode s).v = s.v := rfl
@[simp] theorem finishEncode_rv (s : State) : (finishEncode s).rv = s.rv := rfl
@[simp] theorem finishEncode_rl (s : State) : (finishEncode s).rl = s.rl := rfl
@[simp] theorem finishEncode_cnt (s : State) : (finishEncode s).cnt = s.cnt := rfl
@[simp] theorem finishEncode_p (s : State) : (finishEncode s).p = s.p := rfl
@[simp] theorem finishEncode_stat (s : State) : (finishEncode s).stat = .idle := rfl
@[simp] theorem finishEncode_ok (s : State) : (finishEncode s).ok = true := rfl
@[simp] theorem finishEncode_count (s : State) : (finishEncode s).count = s.cnt := rfl
@[simp] theorem finishEncode_cause (s : State) : (finishEncode s).cause = .none := rfl
@[simp] theorem finishEncode_pix (s : State) : (finishEncode s).pix = s.pix := rfl
@[simp] theorem finishEncode_pixSize (s : State) : (finishEncode s).pixSize = s.pixSize := rfl
@[simp] theorem finishEncode_src (s : State) : (finishEncode s).src = s.src := rfl
@[simp] theorem finishEncode_srcPos (s : State) : (finishEncode s).srcPos = s.srcPos := rfl
@[simp] theorem finishEncode_snk (s : State) : (finishEncode s).snk = s.snk := rfl
@[simp] theorem finishEncode_disjoint (s : State) : (finishEncode s).disjoint = s.disjoint := rfl
@[simp] theorem finishEncode_srcAnswers (s : State) : (finishEncode s).srcAnswers = s.srcAnswers := rfl
@[simp] theorem finishEncode_snkAnswers (s : State) : (finishEncode s).snkAnswers = s.snkAnswers := rfl
@[simp] theorem finishEncode_pixAnswers (s : State) : (finishEncode s).pixAnswers = s.pixAnswers := rfl
@[simp] theorem finishEncode_inbox (s : State) : (finishEncode s).inbox = s.inbox := rfl
@[simp] theorem finishEncode_draws (s : State) : (finishEncode s).draws = s.draws := rfl

/-! ## endDecodeLine -/

@[simp] theorem endDecodeLine_width (s : State) : (endDecodeLine s).width = s.width := rfl
@[simp] theorem endDecodeLine_height (s : State) : (endDecodeLine s).height = s.height := rfl
@[simp] theorem endDecodeLine_bpl (s : State) : (endDecodeLine s).bpl = s.bpl := rfl
@[simp] theorem endDecodeLine_widthSet (s : State) : (endDecodeLine s).widthSet = s.widthSet := rfl
@[simp] theorem endDecodeLine_heightSet (s : State) : (endDecodeLine s).heightSet = s.heightSet := rfl
@[simp] theorem endDecodeLine_bplSet (s : State) : (endDecodeLine s).bplSet = s.bplSet := rfl
@[simp] theorem endDecodeLine_W (s : State) : (endDecodeLine s).W = s.W := rfl
@[simp] theorem endDecodeLine_H (s : State) : (endDecodeLine s).H = s.H := rfl
@[simp] theorem endDecodeLine_L (s : State) : (endDecodeLine s).L = s.L := rfl
@[simp] theorem endDecodeLine_row (s : State) : (endDecodeLine s).row = s.row + 1 := rfl
@[simp] theorem endDecodeLine_col (s : State) : (endDecodeLine s).col = 0 := rfl
@[simp] theorem endDecodeLine_wp (s : State) : (endDecodeLine s).wp = s.wp := rfl
@[simp] theorem endDecodeLine_b (s : State) : (endDecodeLine s).b = s.b := rfl
@[simp] theorem endDecodeLine_n (s : State) : (endDecodeLine s).n = s.n := rfl
@[simp] theorem endDecodeLine_v (s : State) : (endDecodeLine s).v = s.v := rfl
@[simp] theorem endDecodeLine_rv (s : State) : (endDecodeLine s).rv = s.rv := rfl
@[simp] theorem endDecodeLine_rl (s : State) : (endDecodeLine s).rl = s.rl := rfl
@[simp] theorem endDecodeLine_cnt (s : State) : (endDecodeLine s).cnt = s.cnt := rfl
@[simp] theorem endDecodeLine_p (s : State) : (endDecodeLine s).p = s.p := rfl
@[simp] theorem endDecodeLine_stat (s : State) : (endDecodeLine s).stat = s.stat := rfl
@[simp] theorem endDecodeLine_ok (s : State) : (endDecodeLine s).ok = s.ok := rfl
@[simp] theorem endDecodeLine_count (s : State) : (endDecodeLine s).count = s.count := rfl
@[simp] theorem endDecodeLine_cause (s : State) : (endDecodeLine s).cause = s.cause := rfl
@[simp] theorem endDecodeLine_pix (s : State) : (endDecodeLine s).pix = s.pix := rfl
@[simp] theorem endDecodeLine_pixSize (s : State) : (endDecodeLine s).pixSize = s.pixSize := rfl
@[simp] theorem endDecodeLine_src (s : State) : (endDecodeLine s).src = s.src := rfl
@[simp] theorem endDecodeLine_srcPos (s : State) : (endDecodeLine s).srcPos = s.srcPos := rfl
@[simp] theorem endDecodeLine_snk (s : State) : (endDecodeLine s).snk = s.snk := rfl
@[simp] theorem endDecodeLine_disjoint (s : State) : (endDecodeLine s).disjoint = s.disjoint := rfl
@[simp] theorem endDecodeLine_srcAnswers (s : State) : (endDecodeLine s).srcAnswers = s.srcAnswers := rfl
@[simp] theorem endDecodeLine_snkAnswers (s : State) : (endDecodeLine s).snkAnswers = s.snkAnswers := rfl
@[simp] theorem endDecodeLine_pixAnswers (s : State) : (endDecodeLine s).pixAnswers = s.pixAnswers := rfl
@[simp] theorem endDecodeLine_inbox (s : State) : (endDecodeLine s).inbox = s.inbox := rfl
@[simp] theorem endDecodeLine_draws (s : State) : (endDecodeLine s).draws = s.draws := rfl

/-! ## openRow -/

@[simp] theorem openRow_width (x : Byte) (s : State) : (openRow x s).width = s.width := rfl
@[simp] theorem openRow_height (x : Byte) (s : State) : (openRow x s).height = s.height := rfl
@[simp] theorem openRow_bpl (x : Byte) (s : State) : (openRow x s).bpl = s.bpl := rfl
@[simp] theorem openRow_widthSet (x : Byte) (s : State) : (openRow x s).widthSet = s.widthSet := rfl
@[simp] theorem openRow_heightSet (x : Byte) (s : State) : (openRow x s).heightSet = s.heightSet := rfl
@[simp] theorem openRow_bplSet (x : Byte) (s : State) : (openRow x s).bplSet = s.bplSet := rfl
@[simp] theorem openRow_W (x : Byte) (s : State) : (openRow x s).W = s.W := rfl
@[simp] theorem openRow_H (x : Byte) (s : State) : (openRow x s).H = s.H := rfl
@[simp] theorem openRow_L (x : Byte) (s : State) : (openRow x s).L = s.L := rfl
@[simp] theorem openRow_row (x : Byte) (s : State) : (openRow x s).row = s.row := rfl
@[simp] theorem openRow_col (x : Byte) (s : State) : (openRow x s).col = 1 := rfl
@[simp] theorem openRow_wp (x : Byte) (s : State) : (openRow x s).wp = s.wp := rfl
@[simp] theorem openRow_b (x : Byte) (s : State) : (openRow x s).b = s.b := rfl
@[simp] theorem openRow_n (x : Byte) (s : State) : (openRow x s).n = s.n := rfl
@[simp] theorem openRow_v (x : Byte) (s : State) : (openRow x s).v = s.v := rfl
@[simp] theorem openRow_rv (x : Byte) (s : State) : (openRow x s).rv = x := rfl
@[simp] theorem openRow_rl (x : Byte) (s : State) : (openRow x s).rl = 1 := rfl
@[simp] theorem openRow_cnt (x : Byte) (s : State) : (openRow x s).cnt = s.cnt := rfl
@[simp] theorem openRow_p (x : Byte) (s : State) : (openRow x s).p = s.p := rfl
@[simp] theorem openRow_stat (x : Byte) (s : State) : (openRow x s).stat = s.stat := rfl
@[simp] theorem openRow_ok (x : Byte) (s : State) : (openRow x s).ok = s.ok := rfl
@[simp] theorem openRow_count (x : Byte) (s : State) : (openRow x s).count = s.count := rfl
@[simp] theorem openRow_cause (x : Byte) (s : State) : (openRow x s).cause = s.cause := rfl
@[simp] theorem openRow_pix (x : Byte) (s : State) : (openRow x s).pix = s.pix := rfl
@[simp] theorem openRow_pixSize (x : Byte) (s : State) : (openRow x s).pixSize = s.pixSize := rfl
@[simp] theorem openRow_src (x : Byte) (s : State) : (openRow x s).src = s.src := rfl
@[simp] theorem openRow_srcPos (x : Byte) (s : State) : (openRow x s).srcPos = s.srcPos := rfl
@[simp] theorem openRow_snk (x : Byte) (s : State) : (openRow x s).snk = s.snk := rfl
@[simp] theorem openRow_disjoint (x : Byte) (s : State) : (openRow x s).disjoint = s.disjoint := rfl
@[simp] theorem openRow_srcAnswers (x : Byte) (s : State) : (openRow x s).srcAnswers = s.srcAnswers := rfl
@[simp] theorem openRow_snkAnswers (x : Byte) (s : State) : (openRow x s).snkAnswers = s.snkAnswers := rfl
@[simp] theorem openRow_pixAnswers (x : Byte) (s : State) : (openRow x s).pixAnswers = s.pixAnswers := rfl
@[simp] theorem openRow_inbox (x : Byte) (s : State) : (openRow x s).inbox = s.inbox := rfl
@[simp] theorem openRow_draws (x : Byte) (s : State) : (openRow x s).draws = s.draws := rfl

/-! ## extendRun -/

@[simp] theorem extendRun_width (x : Byte) (s : State) : (extendRun x s).width = s.width := rfl
@[simp] theorem extendRun_height (x : Byte) (s : State) : (extendRun x s).height = s.height := rfl
@[simp] theorem extendRun_bpl (x : Byte) (s : State) : (extendRun x s).bpl = s.bpl := rfl
@[simp] theorem extendRun_widthSet (x : Byte) (s : State) : (extendRun x s).widthSet = s.widthSet := rfl
@[simp] theorem extendRun_heightSet (x : Byte) (s : State) : (extendRun x s).heightSet = s.heightSet := rfl
@[simp] theorem extendRun_bplSet (x : Byte) (s : State) : (extendRun x s).bplSet = s.bplSet := rfl
@[simp] theorem extendRun_W (x : Byte) (s : State) : (extendRun x s).W = s.W := rfl
@[simp] theorem extendRun_H (x : Byte) (s : State) : (extendRun x s).H = s.H := rfl
@[simp] theorem extendRun_L (x : Byte) (s : State) : (extendRun x s).L = s.L := rfl
@[simp] theorem extendRun_row (x : Byte) (s : State) : (extendRun x s).row = s.row := rfl
@[simp] theorem extendRun_col (x : Byte) (s : State) : (extendRun x s).col = s.col + 1 := rfl
@[simp] theorem extendRun_wp (x : Byte) (s : State) : (extendRun x s).wp = s.wp := rfl
@[simp] theorem extendRun_b (x : Byte) (s : State) : (extendRun x s).b = s.b := rfl
@[simp] theorem extendRun_n (x : Byte) (s : State) : (extendRun x s).n = s.n := rfl
@[simp] theorem extendRun_v (x : Byte) (s : State) : (extendRun x s).v = s.v := rfl
@[simp] theorem extendRun_rv (x : Byte) (s : State) : (extendRun x s).rv = s.rv := rfl
@[simp] theorem extendRun_rl (x : Byte) (s : State) : (extendRun x s).rl = s.rl + 1 := rfl
@[simp] theorem extendRun_cnt (x : Byte) (s : State) : (extendRun x s).cnt = s.cnt := rfl
@[simp] theorem extendRun_p (x : Byte) (s : State) : (extendRun x s).p = x := rfl
@[simp] theorem extendRun_stat (x : Byte) (s : State) : (extendRun x s).stat = s.stat := rfl
@[simp] theorem extendRun_ok (x : Byte) (s : State) : (extendRun x s).ok = s.ok := rfl
@[simp] theorem extendRun_count (x : Byte) (s : State) : (extendRun x s).count = s.count := rfl
@[simp] theorem extendRun_cause (x : Byte) (s : State) : (extendRun x s).cause = s.cause := rfl
@[simp] theorem extendRun_pix (x : Byte) (s : State) : (extendRun x s).pix = s.pix := rfl
@[simp] theorem extendRun_pixSize (x : Byte) (s : State) : (extendRun x s).pixSize = s.pixSize := rfl
@[simp] theorem extendRun_src (x : Byte) (s : State) : (extendRun x s).src = s.src := rfl
@[simp] theorem extendRun_srcPos (x : Byte) (s : State) : (extendRun x s).srcPos = s.srcPos := rfl
@[simp] theorem extendRun_snk (x : Byte) (s : State) : (extendRun x s).snk = s.snk := rfl
@[simp] theorem extendRun_disjoint (x : Byte) (s : State) : (extendRun x s).disjoint = s.disjoint := rfl
@[simp] theorem extendRun_srcAnswers (x : Byte) (s : State) : (extendRun x s).srcAnswers = s.srcAnswers := rfl
@[simp] theorem extendRun_snkAnswers (x : Byte) (s : State) : (extendRun x s).snkAnswers = s.snkAnswers := rfl
@[simp] theorem extendRun_pixAnswers (x : Byte) (s : State) : (extendRun x s).pixAnswers = s.pixAnswers := rfl
@[simp] theorem extendRun_inbox (x : Byte) (s : State) : (extendRun x s).inbox = s.inbox := rfl
@[simp] theorem extendRun_draws (x : Byte) (s : State) : (extendRun x s).draws = s.draws := rfl

/-! ## latchGeometry -/

@[simp] theorem latchGeometry_width (s : State) : (latchGeometry s).width = s.width := rfl
@[simp] theorem latchGeometry_height (s : State) : (latchGeometry s).height = s.height := rfl
@[simp] theorem latchGeometry_bpl (s : State) : (latchGeometry s).bpl = s.bpl := rfl
@[simp] theorem latchGeometry_widthSet (s : State) : (latchGeometry s).widthSet = s.widthSet := rfl
@[simp] theorem latchGeometry_heightSet (s : State) : (latchGeometry s).heightSet = s.heightSet := rfl
@[simp] theorem latchGeometry_bplSet (s : State) : (latchGeometry s).bplSet = s.bplSet := rfl
@[simp] theorem latchGeometry_W (s : State) : (latchGeometry s).W = s.width := rfl
@[simp] theorem latchGeometry_H (s : State) : (latchGeometry s).H = s.height := rfl
@[simp] theorem latchGeometry_L (s : State) : (latchGeometry s).L = s.bpl := rfl
@[simp] theorem latchGeometry_row (s : State) : (latchGeometry s).row = s.row := rfl
@[simp] theorem latchGeometry_col (s : State) : (latchGeometry s).col = s.col := rfl
@[simp] theorem latchGeometry_wp (s : State) : (latchGeometry s).wp = s.wp := rfl
@[simp] theorem latchGeometry_b (s : State) : (latchGeometry s).b = s.b := rfl
@[simp] theorem latchGeometry_n (s : State) : (latchGeometry s).n = s.n := rfl
@[simp] theorem latchGeometry_v (s : State) : (latchGeometry s).v = s.v := rfl
@[simp] theorem latchGeometry_rv (s : State) : (latchGeometry s).rv = s.rv := rfl
@[simp] theorem latchGeometry_rl (s : State) : (latchGeometry s).rl = s.rl := rfl
@[simp] theorem latchGeometry_cnt (s : State) : (latchGeometry s).cnt = s.cnt := rfl
@[simp] theorem latchGeometry_p (s : State) : (latchGeometry s).p = s.p := rfl
@[simp] theorem latchGeometry_stat (s : State) : (latchGeometry s).stat = s.stat := rfl
@[simp] theorem latchGeometry_ok (s : State) : (latchGeometry s).ok = s.ok := rfl
@[simp] theorem latchGeometry_count (s : State) : (latchGeometry s).count = s.count := rfl
@[simp] theorem latchGeometry_cause (s : State) : (latchGeometry s).cause = s.cause := rfl
@[simp] theorem latchGeometry_pix (s : State) : (latchGeometry s).pix = s.pix := rfl
@[simp] theorem latchGeometry_pixSize (s : State) : (latchGeometry s).pixSize = s.pixSize := rfl
@[simp] theorem latchGeometry_src (s : State) : (latchGeometry s).src = s.src := rfl
@[simp] theorem latchGeometry_srcPos (s : State) : (latchGeometry s).srcPos = s.srcPos := rfl
@[simp] theorem latchGeometry_snk (s : State) : (latchGeometry s).snk = s.snk := rfl
@[simp] theorem latchGeometry_disjoint (s : State) : (latchGeometry s).disjoint = s.disjoint := rfl
@[simp] theorem latchGeometry_srcAnswers (s : State) : (latchGeometry s).srcAnswers = s.srcAnswers := rfl
@[simp] theorem latchGeometry_snkAnswers (s : State) : (latchGeometry s).snkAnswers = s.snkAnswers := rfl
@[simp] theorem latchGeometry_pixAnswers (s : State) : (latchGeometry s).pixAnswers = s.pixAnswers := rfl
@[simp] theorem latchGeometry_inbox (s : State) : (latchGeometry s).inbox = s.inbox := rfl
@[simp] theorem latchGeometry_draws (s : State) : (latchGeometry s).draws = s.draws := rfl

/-! ## setPortAnswers -/

@[simp] theorem setPortAnswers_width (p : Port) (yes : Bool) (s : State) :
    (setPortAnswers p yes s).width = s.width := by cases p <;> rfl
@[simp] theorem setPortAnswers_height (p : Port) (yes : Bool) (s : State) :
    (setPortAnswers p yes s).height = s.height := by cases p <;> rfl
@[simp] theorem setPortAnswers_bpl (p : Port) (yes : Bool) (s : State) :
    (setPortAnswers p yes s).bpl = s.bpl := by cases p <;> rfl
@[simp] theorem setPortAnswers_widthSet (p : Port) (yes : Bool) (s : State) :
    (setPortAnswers p yes s).widthSet = s.widthSet := by cases p <;> rfl
@[simp] theorem setPortAnswers_heightSet (p : Port) (yes : Bool) (s : State) :
    (setPortAnswers p yes s).heightSet = s.heightSet := by cases p <;> rfl
@[simp] theorem setPortAnswers_bplSet (p : Port) (yes : Bool) (s : State) :
    (setPortAnswers p yes s).bplSet = s.bplSet := by cases p <;> rfl
@[simp] theorem setPortAnswers_W (p : Port) (yes : Bool) (s : State) :
    (setPortAnswers p yes s).W = s.W := by cases p <;> rfl
@[simp] theorem setPortAnswers_H (p : Port) (yes : Bool) (s : State) :
    (setPortAnswers p yes s).H = s.H := by cases p <;> rfl
@[simp] theorem setPortAnswers_L (p : Port) (yes : Bool) (s : State) :
    (setPortAnswers p yes s).L = s.L := by cases p <;> rfl
@[simp] theorem setPortAnswers_row (p : Port) (yes : Bool) (s : State) :
    (setPortAnswers p yes s).row = s.row := by cases p <;> rfl
@[simp] theorem setPortAnswers_col (p : Port) (yes : Bool) (s : State) :
    (setPortAnswers p yes s).col = s.col := by cases p <;> rfl
@[simp] theorem setPortAnswers_wp (p : Port) (yes : Bool) (s : State) :
    (setPortAnswers p yes s).wp = s.wp := by cases p <;> rfl
@[simp] theorem setPortAnswers_b (p : Port) (yes : Bool) (s : State) :
    (setPortAnswers p yes s).b = s.b := by cases p <;> rfl
@[simp] theorem setPortAnswers_n (p : Port) (yes : Bool) (s : State) :
    (setPortAnswers p yes s).n = s.n := by cases p <;> rfl
@[simp] theorem setPortAnswers_v (p : Port) (yes : Bool) (s : State) :
    (setPortAnswers p yes s).v = s.v := by cases p <;> rfl
@[simp] theorem setPortAnswers_rv (p : Port) (yes : Bool) (s : State) :
    (setPortAnswers p yes s).rv = s.rv := by cases p <;> rfl
@[simp] theorem setPortAnswers_rl (p : Port) (yes : Bool) (s : State) :
    (setPortAnswers p yes s).rl = s.rl := by cases p <;> rfl
@[simp] theorem setPortAnswers_cnt (p : Port) (yes : Bool) (s : State) :
    (setPortAnswers p yes s).cnt = s.cnt := by cases p <;> rfl
@[simp] theorem setPortAnswers_p (p : Port) (yes : Bool) (s : State) :
    (setPortAnswers p yes s).p = s.p := by cases p <;> rfl
@[simp] theorem setPortAnswers_stat (p : Port) (yes : Bool) (s : State) :
    (setPortAnswers p yes s).stat = s.stat := by cases p <;> rfl
@[simp] theorem setPortAnswers_ok (p : Port) (yes : Bool) (s : State) :
    (setPortAnswers p yes s).ok = s.ok := by cases p <;> rfl
@[simp] theorem setPortAnswers_count (p : Port) (yes : Bool) (s : State) :
    (setPortAnswers p yes s).count = s.count := by cases p <;> rfl
@[simp] theorem setPortAnswers_cause (p : Port) (yes : Bool) (s : State) :
    (setPortAnswers p yes s).cause = s.cause := by cases p <;> rfl
@[simp] theorem setPortAnswers_pix (p : Port) (yes : Bool) (s : State) :
    (setPortAnswers p yes s).pix = s.pix := by cases p <;> rfl
@[simp] theorem setPortAnswers_pixSize (p : Port) (yes : Bool) (s : State) :
    (setPortAnswers p yes s).pixSize = s.pixSize := by cases p <;> rfl
@[simp] theorem setPortAnswers_src (p : Port) (yes : Bool) (s : State) :
    (setPortAnswers p yes s).src = s.src := by cases p <;> rfl
@[simp] theorem setPortAnswers_srcPos (p : Port) (yes : Bool) (s : State) :
    (setPortAnswers p yes s).srcPos = s.srcPos := by cases p <;> rfl
@[simp] theorem setPortAnswers_snk (p : Port) (yes : Bool) (s : State) :
    (setPortAnswers p yes s).snk = s.snk := by cases p <;> rfl
@[simp] theorem setPortAnswers_disjoint (p : Port) (yes : Bool) (s : State) :
    (setPortAnswers p yes s).disjoint = s.disjoint := by cases p <;> rfl
@[simp] theorem setPortAnswers_srcAnswers (p : Port) (yes : Bool) (s : State) :
    (setPortAnswers p yes s).srcAnswers = if p = .source then yes else s.srcAnswers := by cases p <;> rfl
@[simp] theorem setPortAnswers_snkAnswers (p : Port) (yes : Bool) (s : State) :
    (setPortAnswers p yes s).snkAnswers = if p = .sink then yes else s.snkAnswers := by cases p <;> rfl
@[simp] theorem setPortAnswers_pixAnswers (p : Port) (yes : Bool) (s : State) :
    (setPortAnswers p yes s).pixAnswers = if p = .buffer then yes else s.pixAnswers := by cases p <;> rfl
@[simp] theorem setPortAnswers_inbox (p : Port) (yes : Bool) (s : State) :
    (setPortAnswers p yes s).inbox = s.inbox := by cases p <;> rfl
@[simp] theorem setPortAnswers_draws (p : Port) (yes : Bool) (s : State) :
    (setPortAnswers p yes s).draws = s.draws := by cases p <;> rfl

/-! ## The reset state -/

/-- Reset memory is canonical and lies in the buffer. -/
theorem reset_pixInv : PixInv State.reset := by
  refine ⟨?_, ?_⟩ <;> decide

end Sys2Proof.Machine
end

