-- ==== Sys2Proof/Laws/Memory.lean ====
section
/-! SUPPORT. The pixel buffer: a read after a write, and that every memory operation keeps the canonical form. -/

namespace Sys2Proof.Machine

@[simp] theorem Memory.read_nil (a : Nat) : Memory.read [] a = none := rfl

theorem Memory.read_cons (k : Nat) (v : Byte) (m : Memory) (a : Nat) :
    Memory.read ((k, v) :: m) a = if k = a then some v else Memory.read m a := rfl

/-- A read after a write: the byte at its own index, every other byte as before. -/
theorem Memory.read_write (m : Memory) (a : Nat) (v : Byte) (c : Nat) :
    Memory.read (Memory.write m a v) c = if a = c then some v else Memory.read m c := by
  induction m with
  | nil => simp [Memory.write, Memory.read_cons]
  | cons x m ih =>
    obtain ⟨k, w⟩ := x
    by_cases h1 : a < k
    · simp only [Memory.write, h1, if_true, Memory.read_cons]
    · by_cases h2 : a = k
      · subst h2
        by_cases h3 : a = c <;> simp [Memory.write, Memory.read_cons, h3]
      · simp only [Memory.write, h1, h2, if_false, Memory.read_cons, ih]
        by_cases h3 : a = c <;> by_cases h4 : k = c <;> simp [h3, h4]
        omega

@[simp] theorem Memory.read_write_same (m : Memory) (a : Nat) (v : Byte) :
    Memory.read (Memory.write m a v) a = some v := by simp [Memory.read_write]

theorem Memory.read_write_other (m : Memory) (a : Nat) (v : Byte) (c : Nat) (h : a ≠ c) :
    Memory.read (Memory.write m a v) c = Memory.read m c := by simp [Memory.read_write, h]

/-- What a write lists: the cell written, and cells that were there. -/
theorem Memory.mem_write {m : Memory} {a : Nat} {v : Byte} {x : Host.Cell} (h : x ∈ Memory.write m a v) :
    x = (a, v) ∨ x ∈ m := by
  induction m with
  | nil => simpa [Memory.write] using h
  | cons y m ih =>
    obtain ⟨k, w⟩ := y
    by_cases h1 : a < k
    · simpa [Memory.write, h1] using h
    · by_cases h2 : a = k
      · subst h2
        simp only [Memory.write, h1, if_false, if_true, List.mem_cons] at h
        exact h.imp id (List.mem_cons_of_mem _)
      · simp only [Memory.write, h1, h2, if_false, List.mem_cons] at h
        rcases h with h | h
        · exact .inr (by simp [h])
        · exact (ih h).imp id (List.mem_cons_of_mem _)

/-- A write keeps the canonical form. -/
theorem Memory.write_wf {m : Memory} {a : Nat} {v : Byte} (h : Memory.wf m) : Memory.wf (Memory.write m a v) := by
  induction m with
  | nil => simp [Memory.write, Memory.wf]
  | cons y m ih =>
    obtain ⟨k, w⟩ := y
    obtain ⟨hk, hm⟩ := List.pairwise_cons.mp h
    by_cases h1 : a < k
    · simp only [Memory.write, h1, if_true]
      refine List.pairwise_cons.mpr ⟨fun x hx => ?_, h⟩
      rcases List.mem_cons.mp hx with rfl | hx
      · exact h1
      · exact Nat.lt_trans h1 (hk x hx)
    · by_cases h2 : a = k
      · subst h2
        simp only [Memory.write, h1, if_false, if_true]
        exact List.pairwise_cons.mpr ⟨fun x hx => hk x hx, hm⟩
      · simp only [Memory.write, h1, h2, if_false]
        refine List.pairwise_cons.mpr ⟨fun x hx => ?_, ih hm⟩
        rcases Memory.mem_write hx with rfl | hx
        · show k < a
          omega
        · exact hk x hx

/-- A write inside the buffer lists nothing outside it. -/
theorem Memory.write_inside {m : Memory} {a size : Nat} {v : Byte} (h : Memory.inside m size) (ha : a < size) :
    Memory.inside (Memory.write m a v) size := by
  intro x hx
  rcases Memory.mem_write hx with rfl | hx
  · exact ha
  · exact h x hx

/-- `MemWrite` answers next exactly inside the buffer, and then it changes one byte. -/
theorem memWrite_next {a : Nat} {v : Byte} {s t : State} (h : memWrite a v s = .next t) :
    a < s.pixSize ∧ t = { s with pix := Memory.write s.pix a v } := by
  unfold memWrite at h
  split at h
  · cases h; exact ⟨‹_›, rfl⟩
  · cases h

theorem memWrite_of_lt {a : Nat} (v : Byte) {s : State} (h : a < s.pixSize) :
    memWrite a v s = .next { s with pix := Memory.write s.pix a v } := by simp [memWrite, h]

/-- `MemRead` of a byte that holds a value, inside the buffer. -/
theorem memRead_of_some {a : Nat} {v : Byte} {s : State} (h : a < s.pixSize) (hv : Memory.read s.pix a = some v) :
    memRead a s = .byte v := by simp [memRead, h, hv]

/-- When `writtenBelow` says that every index below a bound holds a value. -/
theorem writtenBelow_iff (m : Memory) (k : Nat) :
    writtenBelow m k = true ↔ ∀ a, a < k → (Memory.read m a).isSome = true := by
  simp [writtenBelow]

end Sys2Proof.Machine
end

