-- ==== Sys2Proof/Laws/Encoder.lean ====
section
/-! SUPPORT. The emission of a run (41_encoder.md R145 to R149): what `flush` does to the state, and the cut into chunks. -/

namespace Sys2Proof.Machine

/-! ## The cut into chunks -/

theorem lastChunk_pos {len : Nat} (h : 1 ≤ len) : 1 ≤ lastChunk len ∧ lastChunk len ≤ 63 := by
  simp only [lastChunk, fullChunks, Config.maxChunk]; omega

theorem chunks_add_up {len : Nat} (h : 1 ≤ len) : 63 * fullChunks len + lastChunk len = len := by
  simp only [lastChunk, fullChunks, Config.maxChunk]; omega

theorem lastChunk_field {len : Nat} (h : 1 ≤ len) : (BitVec.ofNat 6 (lastChunk len)).toNat = lastChunk len := by
  have := lastChunk_pos h
  rw [BitVec.toNat_ofNat]
  exact Nat.mod_eq_of_lt (by omega)

theorem fullChunks_long {len : Nat} (h : 63 < len) : fullChunks len = fullChunks (len - 63) + 1 := by
  simp only [fullChunks, Config.maxChunk]; omega

theorem lastChunk_long {len : Nat} (h : 63 < len) : lastChunk len = lastChunk (len - 63) := by
  simp only [lastChunk, fullChunks, Config.maxChunk]; omega

theorem fullChunks_short {len : Nat} (h : len ≤ 63) : fullChunks len = 0 := by
  simp only [fullChunks, Config.maxChunk]; omega

theorem lastChunk_short {len : Nat} (h : len ≤ 63) : lastChunk len = len := by
  simp only [lastChunk, fullChunks, Config.maxChunk]; omega

/-- One full chunk first, then the chunks of what remains. -/
theorem chunkTokens_long (v : Byte) {len : Nat} (h : 63 < len) :
    chunkTokens v len = .run (BitVec.ofNat 6 Config.maxChunk) v :: chunkTokens v (len - 63) := by
  simp only [chunkTokens, fullChunks_long h, lastChunk_long h, List.replicate_succ, List.cons_append]

/-- A run of up to 63 is one chunk. -/
theorem chunkTokens_short (v : Byte) {len : Nat} (h : len ≤ 63) :
    chunkTokens v len = [.run (BitVec.ofNat 6 len) v] := by
  simp [chunkTokens, fullChunks_short h, lastChunk_short h]

/-! ## The sink -/

/-- `flush` appends the bytes of the run to the sink, counts each, and changes nothing else. -/
theorem foldl_emitByte (l : List Byte) (s : State) :
    l.foldl emitByte s = { s with snk := s.snk ++ l, cnt := s.cnt + l.length } := by
  induction l generalizing s with
  | nil => simp
  | cons x l ih =>
    rw [List.foldl_cons, ih]
    simp only [emitByte, sinkWrite, List.length_cons, List.append_assoc, List.singleton_append, State.mk.injEq, true_and, and_true]
    omega

theorem flush_eq (v : Byte) (len : Nat) (s : State) :
    flush v len s = { s with snk := s.snk ++ emitBytes v len, cnt := s.cnt + (emitBytes v len).length } :=
  foldl_emitByte _ s

/-- A run of length `len` costs at most two sink bytes for each of its bytes. -/
theorem emitBytes_length_le (v : Byte) {len : Nat} (h : 1 ≤ len) : (emitBytes v len).length ≤ 2 * len := by
  have hc : ((chunkTokens v len).flatMap encodeToken).length = 2 * (fullChunks len + 1) := by
    simp [chunkTokens, List.flatMap_append, encodeToken, List.length_flatMap, List.sum_replicate]
    omega
  have hu := chunks_add_up h
  have hp := lastChunk_pos h
  unfold emitBytes emitTokens
  split
  · rename_i hv
    rw [List.flatMap_cons, List.flatMap_nil, literalOf_bytes hv.2]
    simp only [List.append_nil, List.length_cons, List.length_nil]
    omega
  · rw [hc]; omega

end Sys2Proof.Machine
end

