-- ==== Sys2Proof/Laws/Tokens.lean ====
section
/-! SUPPORT. The write rule: all it can do, and when it answers (40_decoder.md R116, R117). -/

namespace Sys2Proof.Machine

theorem andThen_next_iff {o : Out} {k : State → Out} {t : State} :
    andThen o k = .next t ↔ ∃ u, o = .next u ∧ k u = .next t := by
  cases o <;> simp [andThen]

@[simp] theorem andThen_next (s : State) (k : State → Out) : andThen (.next s) k = k s := rfl

/-- The number of writes of the first repetition, and of the others. -/
theorem writtenCount_succ_below {W col : Nat} (k : Nat) (h : col < W) :
    writtenCount (k + 1) W col = writtenCount k W (col + 1) + 1 := by
  unfold writtenCount; omega

theorem writtenCount_above {W col : Nat} (k : Nat) (h : W ≤ col) : writtenCount k W col = 0 := by
  unfold writtenCount; omega

theorem writtenCount_le (k W col : Nat) : writtenCount k W col ≤ k := by unfold writtenCount; omega

theorem writtenCount_one {W col : Nat} : writtenCount 1 W col = if col < W then 1 else 0 := by
  unfold writtenCount; split <;> omega

theorem writeOnce_below {v : Byte} {s t : State} (hc : s.col < s.W.toNat) (h : writeOnce v s = .next t) :
    s.wp < s.pixSize ∧
      t = { s with pix := Memory.write s.pix s.wp v, wp := s.wp + 1, col := s.col + 1 } := by
  simp only [writeOnce, hc, if_true] at h
  obtain ⟨u, hu, ht⟩ := andThen_next_iff.mp h
  obtain ⟨hl, rfl⟩ := memWrite_next hu
  cases ht
  exact ⟨hl, rfl⟩

theorem writeOnce_above {v : Byte} {s : State} (hc : s.W.toNat ≤ s.col) :
    writeOnce v s = .next { s with col := s.col + 1 } := by
  simp [writeOnce, Nat.not_lt.mpr hc]

/-- What a token's repetitions have done to the state once they are all made. -/
structure Written (v : Byte) (k : Nat) (s t : State) : Prop where
  /-- Only `col`, `wp` and `PIX` changed. -/
  frame : t = { s with col := t.col, wp := t.wp, pix := t.pix }
  /-- The column moved on every repetition. -/
  col : t.col = s.col + k
  /-- The cursor moved on every write. -/
  wp : t.wp = s.wp + writtenCount k s.W.toNat s.col
  /-- The bytes from the old cursor to the new one hold the value, the others are as before. -/
  read : ∀ a, Memory.read t.pix a =
    if s.wp ≤ a ∧ a < s.wp + writtenCount k s.W.toNat s.col then some v else Memory.read s.pix a
  /-- The memory keeps its canonical form. -/
  pix : PixInv s → PixInv t
  /-- The writes lay inside the buffer. -/
  inside : writtenCount k s.W.toNat s.col = 0 ∨ s.wp + writtenCount k s.W.toNat s.col ≤ s.pixSize

/-- All the write rule can do. -/
theorem writeRule_next {v : Byte} {k : Nat} {s t : State} (h : writeRule v k s = .next t) : Written v k s t := by
  induction k generalizing s with
  | zero =>
    simp only [writeRule, Host.Outcome.next.injEq] at h
    subst h
    refine ⟨rfl, rfl, ?_, fun a => ?_, id, .inl ?_⟩
    · simp [writtenCount]
    · have : ¬ (s.wp ≤ a ∧ a < s.wp + writtenCount 0 s.W.toNat s.col) := by simp [writtenCount]
      rw [if_neg this]
    · simp [writtenCount]
  | succ k ih =>
    obtain ⟨u, hu, ht⟩ := andThen_next_iff.mp h
    have w := ih ht
    by_cases hc : s.col < s.W.toNat
    · obtain ⟨hl, rfl⟩ := writeOnce_below hc hu
      have hn := writtenCount_succ_below k hc
      refine ⟨w.frame, ?_, ?_, fun a => ?_, fun hp => ?_, ?_⟩
      · have := w.col; simp only at this; omega
      · have := w.wp; simp only at this; omega
      · rw [w.read, hn]
        simp only [Memory.read_write]
        by_cases h1 : s.wp + 1 ≤ a ∧ a < s.wp + 1 + writtenCount k s.W.toNat (s.col + 1)
        · rw [if_pos h1, if_pos ⟨by omega, by omega⟩]
        · rw [if_neg h1]
          by_cases h2 : s.wp = a
          · rw [if_pos h2, if_pos ⟨by omega, by omega⟩]
          · rw [if_neg h2, if_neg (by omega)]
      · exact w.pix ⟨Memory.write_wf hp.1, Memory.write_inside hp.2 hl⟩
      · rcases w.inside with h0 | h0 <;> simp only at h0 <;> omega
    · have hc' : s.W.toNat ≤ s.col := Nat.not_lt.mp hc
      rw [writeOnce_above hc'] at hu
      cases hu
      have h0 := writtenCount_above (k + 1) hc'
      have h1 : writtenCount k s.W.toNat (s.col + 1) = 0 := writtenCount_above k (by omega)
      refine ⟨w.frame, ?_, ?_, fun a => ?_, w.pix, .inl h0⟩
      · have := w.col; simp only at this; omega
      · have := w.wp; simp only at this; omega
      · rw [w.read, h0]
        simp [h1]

/-- The write rule answers when its writes lie inside the buffer. -/
theorem writeRule_completes (v : Byte) {k : Nat} {s : State}
    (h : writtenCount k s.W.toNat s.col = 0 ∨ s.wp + writtenCount k s.W.toNat s.col ≤ s.pixSize) :
    ∃ t, writeRule v k s = .next t := by
  induction k generalizing s with
  | zero => exact ⟨s, rfl⟩
  | succ k ih =>
    by_cases hc : s.col < s.W.toNat
    · have hn := writtenCount_succ_below k hc
      have hl : s.wp < s.pixSize := by omega
      simp only [writeRule, writeOnce, hc, if_true, memWrite_of_lt v hl, andThen_next]
      exact ih (by simp only; omega)
    · have hc' : s.W.toNat ≤ s.col := Nat.not_lt.mp hc
      simp only [writeRule, writeOnce_above hc', andThen_next]
      exact ih (.inl (writtenCount_above k (by simp only; omega)))

/-- The write rule faults when a write lies outside the buffer. -/
theorem writeRule_faults (v : Byte) {k : Nat} {s : State} (h0 : 0 < writtenCount k s.W.toNat s.col)
    (h : s.pixSize < s.wp + writtenCount k s.W.toNat s.col) : writeRule v k s = .fault .pixIndexOutside := by
  induction k generalizing s with
  | zero => simp [writtenCount] at h0
  | succ k ih =>
    by_cases hc : s.col < s.W.toNat
    · have hn := writtenCount_succ_below k hc
      by_cases hl : s.wp < s.pixSize
      · simp only [writeRule, writeOnce, hc, if_true, memWrite_of_lt v hl, andThen_next]
        exact ih (by simp only; omega) (by simp only; omega)
      · simp [writeRule, writeOnce, hc, memWrite, hl, andThen]
    · rw [writtenCount_above _ (Nat.not_lt.mp hc)] at h0
      omega

/-- The tokens' meanings are the write rule, with the token's weight and value. -/
theorem execLiteral_eq (v : Byte) (s : State) : execLiteral v s = writeRule v 1 (setToken 1#6 v s) := rfl

/-- The six-bit length DEC puts in `n` for a token. -/
def lengthField : Instr → BitVec 6
  | .run n _ => n
  | _ => 1#6

/-- Every token executes as the write rule on its weight and value. -/
theorem exec_token (i : Instr) (h : i.isToken = true) (s : State) :
    exec i s = writeRule (tokenValue i) (weight i) (setToken (lengthField i) (tokenValue i) s) := by
  cases i <;> first | rfl | simp [Instr.isToken] at h

end Sys2Proof.Machine
end

