-- ==== Sys2Proof/Laws/Fetch.lean ====
section
/-! SUPPORT. Token fetch reads what the decoder finds in the bytes the source still holds (40_decoder.md R113, R115, R120). -/

namespace Sys2Proof.Machine

theorem remaining_cons {s : State} {x : Byte} {rest : List Byte} (h : s.remaining = x :: rest) :
    srcByte s = some x ∧ (srcAdvance s).remaining = rest := by
  constructor
  · have := congrArg List.head? h
    simpa [State.remaining, srcByte, List.head?_drop] using this
  · have := congrArg List.tail h
    simpa [State.remaining, List.tail_drop, Nat.add_comm] using this

theorem remaining_nil {s : State} (h : s.remaining = []) : srcByte s = none := by
  have := congrArg List.head? h
  simpa [State.remaining, srcByte, List.head?_drop] using this

theorem remaining_markerRead (x : Byte) (s : State) : (markerRead x s).remaining = (srcAdvance s).remaining := rfl

/-- The register `n` once a token's bytes are read: a `RUN`'s length is there before its value is fetched (40_decoder.md R115). -/
def fetchedLength (i : Instr) (s : State) : BitVec 6 :=
  match i with
  | .run n _ => n
  | _ => s.n

theorem fetchedLength_literalOf (x : Byte) (s : State) : fetchedLength (literalOf x) s = s.n := by
  unfold literalOf; repeat' split
  all_goals rfl

/-- A token's meaning writes `n` itself, so it is the same from the state with the old `n`. -/
theorem setToken_after_fetch (k m : BitVec 6) (x y : Byte) (pos : Nat) (s : State) :
    setToken k x { s with b := y, n := m, srcPos := pos } = setToken k x { s with b := y, srcPos := pos } := rfl

/-- The decoder finds a token: the fetch reads exactly its bytes. -/
theorem fetchToken_token {s : State} {i : Instr} {rest : List Byte} (h : decodeToken s.remaining = .token i rest) :
    ∃ x, srcByte s = some x ∧
      fetchToken s = .token i { s with b := x, n := fetchedLength i s, srcPos := s.srcPos + tokenLength i } ∧
      s.src.drop (s.srcPos + tokenLength i) = rest := by
  rcases hr : s.remaining with _ | ⟨x, l⟩
  · rw [hr] at h; cases h
  · obtain ⟨hx, ha⟩ := remaining_cons hr
    rw [hr] at h
    by_cases hm : 192 < x.toNat
    · rcases l with _ | ⟨v, l⟩
      · rw [decodeToken_marker_only hm] at h; cases h
      · rw [decodeToken_run v l hm] at h
        cases h
        obtain ⟨hv, hb⟩ := remaining_cons (s := markerRead x s) ha
        refine ⟨x, hx, ?_, hb⟩
        simp only [fetchToken, hx, (isMarker_iff x).mpr hm, if_true, hv]
        rfl
    · have hm' : x.toNat ≤ 192 := by omega
      rw [decodeToken_literal l hm'] at h
      cases h
      refine ⟨x, hx, ?_, ?_⟩
      · simp only [fetchToken, hx, (isMarker_false_iff x).mpr hm', literalOf_length, fetchedLength_literalOf]
        rfl
      · rw [literalOf_length]; exact ha

/-- The source holds nothing: the fetch ends at the first byte. -/
theorem fetchToken_eofToken {s : State} (h : s.remaining = []) : fetchToken s = .exhausted .eofToken s := by
  simp [fetchToken, remaining_nil h]

/-- The source holds a lone marker byte: the fetch reads it and ends. -/
theorem fetchToken_eofValue {s : State} {x : Byte} (h : s.remaining = [x]) (hm : 192 < x.toNat) :
    fetchToken s = .exhausted .eofValue (markerRead x s) := by
  obtain ⟨hx, ha⟩ := remaining_cons h
  have hv : srcByte (markerRead x s) = none := remaining_nil ha
  simp only [fetchToken, hx, (isMarker_iff x).mpr hm, if_true, hv]

/-- All a fetch can come to. -/
theorem fetchToken_cases (s : State) :
    (∃ i rest x, decodeToken s.remaining = .token i rest ∧
      fetchToken s = .token i { s with b := x, n := fetchedLength i s, srcPos := s.srcPos + tokenLength i } ∧
      s.src.drop (s.srcPos + tokenLength i) = rest) ∨
    (s.remaining = [] ∧ fetchToken s = .exhausted .eofToken s) ∨
    (∃ x, s.remaining = [x] ∧ 192 < x.toNat ∧ fetchToken s = .exhausted .eofValue (markerRead x s)) := by
  rcases hd : decodeToken s.remaining with ⟨i, rest⟩ | _ | _
  · obtain ⟨x, -, hf, hr⟩ := fetchToken_token hd
    exact .inl ⟨i, rest, x, rfl, hf, hr⟩
  · rcases hr : s.remaining with _ | ⟨x, l⟩
    · exact .inr (.inl ⟨rfl, fetchToken_eofToken hr⟩)
    · rw [hr] at hd
      by_cases hm : 192 < x.toNat
      · rcases l with _ | ⟨v, l⟩
        · rw [decodeToken_marker_only hm] at hd; cases hd
        · rw [decodeToken_run v l hm] at hd; cases hd
      · rw [decodeToken_literal l (by omega)] at hd; cases hd
  · rcases hr : s.remaining with _ | ⟨x, l⟩
    · rw [hr] at hd; cases hd
    · rw [hr] at hd
      by_cases hm : 192 < x.toNat
      · rcases l with _ | ⟨v, l⟩
        · exact .inr (.inr ⟨x, rfl, hm, fetchToken_eofValue hr hm⟩)
        · rw [decodeToken_run v l hm] at hd; cases hd
      · rw [decodeToken_literal l (by omega)] at hd; cases hd

/-- A token the decoder finds is one: it has an operand in range, a weight of at least 1, and is no block operation. -/
theorem decodeToken_token {bytes : List Byte} {i : Instr} {rest : List Byte} (h : decodeToken bytes = .token i rest) :
    i.isToken = true ∧ 1 ≤ weight i ∧ weight i ≤ 63 := by
  rcases bytes with _ | ⟨x, l⟩
  · cases h
  · by_cases hm : 192 < x.toNat
    · rcases l with _ | ⟨v, l⟩
      · rw [decodeToken_marker_only hm] at h; cases h
      · rw [decodeToken_run v l hm] at h
        cases h
        have := runLength_of_marker hm
        have := x.isLt
        refine ⟨rfl, ?_, ?_⟩ <;> simp only [weight] <;> omega
    · rw [decodeToken_literal l (by omega)] at h
      cases h
      rw [literalOf_weight]
      exact ⟨literalOf_isToken x, by omega, by omega⟩

end Sys2Proof.Machine
end

