-- ==== Sys2Proof/Laws/ListModel.lean ====
section
/-! SUPPORT. The list functions of 40_decoder.md R124 as the spec writes them: `line` by `tok`, and `tok` as the decoder. -/

namespace Sys2Proof.ListModel

/-- `tok` is what the decoder finds: the token's weight, value, and the rest. -/
theorem tok_eq (s : List Byte) :
    tok s =
      match decodeToken s with
      | .token i rest => some (weight i, tokenValue i, rest)
      | .eofToken => none
      | .eofValue => none := by
  rcases s with _ | ⟨b, l⟩
  · rfl
  · by_cases h : b.toNat ≤ 192
    · rw [decodeToken_literal l h]
      simp only [literalOf_weight, literalOf_value h]
      rcases l with _ | ⟨v, l⟩ <;> simp [tok, h]
    · have h' : 192 < b.toNat := by omega
      rcases l with _ | ⟨v, l⟩
      · rw [decodeToken_marker_only h']; simp [tok, h]
      · rw [decodeToken_run v l h']; simp [tok, h, weight, tokenValue, runLength_toNat]

/-- `line` by `tok`, as the spec writes it. -/
theorem line_eq (W L : Nat) (s : List Byte) (col : Nat) (out : List Byte) :
    line W L s col out =
      if L ≤ col then some (s, out)
      else
        match tok s with
        | none => none
        | some (n, v, s') => line W L s' (col + n) (out ++ List.replicate (min n (W - col)) v) := by
  rcases s with _ | ⟨b, l⟩
  · simp [line, tok]
  · by_cases hc : L ≤ col
    · rcases l with _ | ⟨v, l⟩ <;> simp [line, hc]
    · by_cases h : b.toNat ≤ 192
      · rcases l with _ | ⟨v, l⟩ <;> simp [line, tok, hc, h]
      · rcases l with _ | ⟨v, l⟩ <;> simp [line, tok, hc, h]

end Sys2Proof.ListModel
end

