-- ==== Sys2Proof/Laws/PerInstr.lean ====
section
/-! SUPPORT. Per instruction: how its words are laid out (30_encoding.md R81, R82, R85, R90). -/

namespace Sys2Proof.Laws.WordsOf

/-- A token's words are as many stream bytes as its length says, the first of which is a marker exactly for `RUN`; a block
operation has no stream byte and one operand bit. -/
def Statement (i : Instr) : Prop :=
  WellFormed i →
    (encodeToken i).length = tokenLength i ∧
    (i.isToken = true → encode i = .stream (encodeToken i)) ∧
    (i.isToken = false → ∃ op, encode i = .command op) ∧
    ∀ x ∈ (encodeToken i).head?, (isMarker x = true ↔ rowOf i = 4)

theorem litLow (v : Byte) : Statement (.litLow v) := by
  intro h
  have hv : v.toNat ≤ 0x3F := of_decide_eq_true h
  refine ⟨rfl, fun _ => rfl, fun h => by simp [Instr.isToken] at h, fun x hx => ?_⟩
  simp only [encodeToken, List.head?_cons, Option.mem_def, Option.some.injEq] at hx
  subst hx
  simp only [isMarker_iff, rowOf]
  omega

theorem litMid (v : Byte) : Statement (.litMid v) := by
  intro h
  have hv : 0x40 ≤ v.toNat ∧ v.toNat ≤ 0x7F := of_decide_eq_true h
  refine ⟨rfl, fun _ => rfl, fun h => by simp [Instr.isToken] at h, fun x hx => ?_⟩
  simp only [encodeToken, List.head?_cons, Option.mem_def, Option.some.injEq] at hx
  subst hx
  simp only [isMarker_iff, rowOf]
  omega

theorem litHigh (v : Byte) : Statement (.litHigh v) := by
  intro h
  have hv : 0x80 ≤ v.toNat ∧ v.toNat ≤ 0xBF := of_decide_eq_true h
  refine ⟨rfl, fun _ => rfl, fun h => by simp [Instr.isToken] at h, fun x hx => ?_⟩
  simp only [encodeToken, List.head?_cons, Option.mem_def, Option.some.injEq] at hx
  subst hx
  simp only [isMarker_iff, rowOf]
  omega

theorem litC0 : Statement .litC0 := by
  intro _
  refine ⟨rfl, fun _ => rfl, fun h => by simp [Instr.isToken] at h, fun x hx => ?_⟩
  simp only [encodeToken, List.head?_cons, Option.mem_def, Option.some.injEq] at hx
  subst hx
  decide

theorem run (n : BitVec 6) (v : Byte) : Statement (.run n v) := by
  intro h
  have hn : n ≠ 0 := of_decide_eq_true h
  refine ⟨rfl, fun _ => rfl, fun h => by simp [Instr.isToken] at h, fun x hx => ?_⟩
  simp only [encodeToken, List.head?_cons, Option.mem_def, Option.some.injEq] at hx
  subst hx
  simp only [isMarker_markerByte hn, rowOf]

theorem decode : Statement .decode :=
  fun _ => ⟨rfl, fun h => by simp [Instr.isToken] at h, fun _ => ⟨_, rfl⟩, fun x hx => by simp [encodeToken] at hx⟩

theorem encode : Statement .encode :=
  fun _ => ⟨rfl, fun h => by simp [Instr.isToken] at h, fun _ => ⟨_, rfl⟩, fun x hx => by simp [encodeToken] at hx⟩

end Sys2Proof.Laws.WordsOf
end

