-- ==== Sys2Proof/Laws/Step.lean ====
section
/-! SUPPORT. All a step can do: one inversion lemma for DEC, for ENC, for the acceptance of a `START`, for the host's other moves,
and for the step. Whole-machine statements cite these. -/

namespace Sys2Proof.Machine

/-- All a step of DEC can do when it answers next. -/
theorem decodeStep_next {s t : State} (h : decodeStep s = .next t) :
    (∃ i rest x u, s.row < s.H.toNat ∧ s.col < s.L.toNat ∧ decodeToken s.remaining = .token i rest ∧
      s.src.drop (s.srcPos + tokenLength i) = rest ∧
      u = setToken (lengthField i) (tokenValue i) { s with b := x, srcPos := s.srcPos + tokenLength i } ∧
      Written (tokenValue i) (weight i) u t) ∨
    (s.row < s.H.toNat ∧ s.col < s.L.toNat ∧ s.remaining = [] ∧ t = raiseSourceExhausted .eofToken s) ∨
    (∃ x, s.row < s.H.toNat ∧ s.col < s.L.toNat ∧ s.remaining = [x] ∧ 192 < x.toNat ∧
      t = raiseSourceExhausted .eofValue (markerRead x s)) ∨
    (s.row < s.H.toNat ∧ s.L.toNat ≤ s.col ∧ t = endDecodeLine s) ∨
    (s.H.toNat ≤ s.row ∧ t = finishDecode s) := by
  unfold decodeStep at h
  split at h
  · rename_i hrow
    split at h
    · rename_i hcol
      rcases fetchToken_cases s with ⟨i, rest, x, hd, hf, hr⟩ | ⟨hr, hf⟩ | ⟨x, hr, hm, hf⟩
      · rw [hf] at h
        simp only at h
        rw [exec_token i (decodeToken_token hd).1, setToken_after_fetch] at h
        exact .inl ⟨i, rest, x, _, hrow, hcol, hd, hr, rfl, writeRule_next h⟩
      · rw [hf] at h; cases h
        exact .inr (.inl ⟨hrow, hcol, hr, rfl⟩)
      · rw [hf] at h; cases h
        exact .inr (.inr (.inl ⟨x, hrow, hcol, hr, hm, rfl⟩))
    · rename_i hcol
      cases h
      exact .inr (.inr (.inr (.inl ⟨hrow, by omega, rfl⟩)))
  · cases h
    exact .inr (.inr (.inr (.inr ⟨by omega, rfl⟩)))

/-- All a step of ENC can do when it answers next. -/
theorem encodeStep_next {s t : State} (h : encodeStep s = .next t) :
    (∃ x, s.row < s.H.toNat ∧ s.col < s.L.toNat ∧ inByte s = .byte x ∧ t = takeByte x s) ∨
    (s.row < s.H.toNat ∧ s.L.toNat ≤ s.col ∧ t = endEncodeRow s) ∨
    (s.H.toNat ≤ s.row ∧ t = finishEncode s) := by
  unfold encodeStep at h
  split at h
  · rename_i hrow
    split at h
    · rename_i hcol
      rcases hx : inByte s with x | f
      · rw [hx] at h; cases h
        exact .inl ⟨x, hrow, hcol, rfl, rfl⟩
      · rw [hx] at h; cases h
    · rename_i hcol
      cases h
      exact .inr (.inl ⟨hrow, by omega, rfl⟩)
  · cases h
    exact .inr (.inr ⟨by omega, rfl⟩)

/-- What ENC does with the byte it takes. -/
theorem takeByte_cases (x : Byte) (s : State) :
    (s.col = 0 ∧ takeByte x s = openRow x s) ∨
    (0 < s.col ∧ x = s.rv ∧ takeByte x s = extendRun x s) ∨
    (0 < s.col ∧ x ≠ s.rv ∧ takeByte x s = breakRun x s) := by
  unfold takeByte
  by_cases h0 : s.col = 0
  · exact .inl ⟨h0, by simp [h0]⟩
  · by_cases hx : x = s.rv
    · exact .inr (.inl ⟨by omega, hx, by simp [h0, hx]⟩)
    · exact .inr (.inr ⟨by omega, hx, by simp [h0, hx]⟩)

/-- A launch has its premises exactly when no problem is named. -/
theorem launchProblem_none_iff (s : State) :
    launchProblem s = none ↔
      configured s = true ∧ launchArea s ≤ s.pixSize ∧ s.disjoint = true := by
  unfold launchProblem
  cases hc : configured s <;> cases hd : s.disjoint <;> by_cases hb : launchArea s ≤ s.pixSize <;>
    simp [bufferFits, hb]

/-- All a `DECODE` can do when it answers next. -/
theorem execDecode_next {s t : State} (h : execDecode s = .next t) :
    (s.stat = .idle ∧ configured s = true ∧ launchArea s ≤ s.pixSize ∧ s.disjoint = true ∧ t = startDecode s) ∨
    (s.stat ≠ .idle ∧ t = s) := by
  unfold execDecode at h
  split at h
  · rename_i hs
    rcases hp : launchProblem s with _ | r
    · rw [hp] at h; cases h
      obtain ⟨h1, h2, h3⟩ := (launchProblem_none_iff s).mp hp
      exact .inl ⟨hs, h1, h2, h3, rfl⟩
    · rw [hp] at h; cases h
  · cases h; exact .inr ⟨‹_›, rfl⟩

/-- All an `ENCODE` can do when it answers next. -/
theorem execEncode_next {s t : State} (h : execEncode s = .next t) :
    (s.stat = .idle ∧ configured s = true ∧ launchArea s ≤ s.pixSize ∧ s.disjoint = true ∧
      (∀ a, a < launchArea s → (Memory.read s.pix a).isSome = true) ∧ t = startEncode s) ∨
    (s.stat ≠ .idle ∧ t = s) := by
  unfold execEncode at h
  split at h
  · rename_i hs
    unfold encodeLaunchProblem at h
    rcases hp : launchProblem s with _ | r
    · rw [hp] at h
      cases hi : inputWritten s
      · simp [hi] at h
      · simp only [hi, Bool.true_eq_false, if_false] at h
        cases h
        obtain ⟨h1, h2, h3⟩ := (launchProblem_none_iff s).mp hp
        exact .inl ⟨hs, h1, h2, h3, (writtenBelow_iff _ _).mp hi, rfl⟩
    · rw [hp] at h; cases h
  · cases h; exact .inr ⟨‹_›, rfl⟩

/-- A `START` runs `DECODE` or `ENCODE`. -/
theorem exec_start_next {op : BitVec 1} {s t : State} (h : exec (decodeCommand op) s = .next t) :
    (op = 0#1 ∧ execDecode s = .next t) ∨ (op = 1#1 ∧ execEncode s = .next t) := by
  unfold decodeCommand at h
  split at h
  · exact .inl ⟨‹_›, h⟩
  · refine .inr ⟨?_, h⟩
    rename_i h0
    have : ∀ x : BitVec 1, x ≠ 0#1 → x = 1#1 := by decide
    exact this op h0

theorem whenIdle_next {s t : State} {o : Out} (h : whenIdle s o = .next t) : s.stat = .idle ∧ o = .next t := by
  unfold whenIdle at h
  split at h
  · exact ⟨‹_›, h⟩
  · cases h

/-- The host's moves on the configuration, the buffer, the streams and the wiring. -/
def HostMove.isSetup : HostMove → Bool
  | .setWidth _ => true
  | .setHeight _ => true
  | .setBpl _ => true
  | .giveBuffer _ => true
  | .writePix _ _ => true
  | .giveSource _ _ => true
  | .giveSink _ => true
  | .wirePorts _ => true
  | .start _ => false
  | .reset => false
  | .hold => false
  | .portAnswers _ _ => false
  | .tick => false

/-- A setup move answers next in `IDLE` only, and leaves the block in `IDLE`. -/
theorem hostStep_setup {m : HostMove} {s t : State} (hm : m.isSetup = true) (h : hostStep m s = .next t) :
    s.stat = .idle ∧ t.stat = .idle := by
  cases m <;> first | (simp [HostMove.isSetup] at hm; done) | skip
  case writePix a v =>
    obtain ⟨hs, ho⟩ := whenIdle_next h
    split at ho
    · cases ho; exact ⟨hs, hs⟩
    · cases ho
  all_goals
    obtain ⟨hs, ho⟩ := whenIdle_next h
    cases ho
    exact ⟨hs, hs⟩

/-- Every setup move keeps the memory canonical and inside the buffer. -/
theorem hostStep_setup_pixInv {m : HostMove} {s t : State} (hm : m.isSetup = true) (h : hostStep m s = .next t)
    (hp : PixInv s) : PixInv t := by
  cases m <;> first | (simp [HostMove.isSetup] at hm; done) | skip
  case writePix a v =>
    obtain ⟨-, ho⟩ := whenIdle_next h
    split at ho
    · rename_i ha
      cases ho
      exact ⟨Memory.write_wf hp.1, Memory.write_inside hp.2 ha⟩
    · cases ho
  case giveBuffer size =>
    obtain ⟨-, ho⟩ := whenIdle_next h
    cases ho
    exact ⟨List.Pairwise.nil, fun x hx => by simp at hx⟩
  all_goals
    obtain ⟨-, ho⟩ := whenIdle_next h
    cases ho
    exact hp

/-- All a step can do when it answers next. -/
theorem step_next {s t : State} (h : step s = .next t) :
    (s.inbox = [] ∧ blockStep s = .next t) ∨
    (∃ m rest, s.inbox = m :: rest ∧ hostStep m { s with inbox := rest } = .next t) := by
  unfold step advance at h
  rcases hi : s.inbox with _ | ⟨m, rest⟩
  · rw [hi] at h; exact .inl ⟨rfl, h⟩
  · rw [hi] at h; exact .inr ⟨m, rest, rfl, h⟩

/-- When the block is due to advance a step is its advance, the move used up. -/
theorem step_of_blockMoves {s : State} (h : BlockMoves s) : step s = blockStep { s with inbox := s.inbox.tail } := by
  rcases h with h | ⟨m, h⟩
  · have hs : ({ s with inbox := s.inbox.tail } : State) = s := by rw [h]; show ({ s with inbox := [] } : State) = s; rw [← h]
    rw [hs]; simp only [step, advance, h]
  · simp only [step, advance, h, hostStep, List.tail_cons]

/-- The source holds a complete token exactly when the decoder finds one. -/
theorem holdsToken_iff (s : State) : holdsToken s = true ↔ ∃ i rest, decodeToken s.remaining = .token i rest := by
  unfold holdsToken
  rcases fetchToken_cases s with ⟨i, rest, x, hd, hf, -⟩ | ⟨h, hf⟩ | ⟨x, h, hx, hf⟩ <;> rw [hf]
  · exact ⟨fun _ => ⟨i, rest, hd⟩, fun _ => rfl⟩
  · simp [h, decodeToken]
  · have hm : isMarker x = true := decide_eq_true hx
    simp [h, decodeToken, hm]

/-- What DEC holds on. -/
theorem decodeWaits_iff (s : State) :
    decodeWaits s = true ↔ (s.row < s.H.toNat ∧ s.col < s.L.toNat) ∧
      (s.srcAnswers = false ∨
        s.col < s.W.toNat ∧ s.pixAnswers = false ∧ ∃ i rest, decodeToken s.remaining = .token i rest) := by
  rw [← holdsToken_iff]
  simp only [decodeWaits, Bool.and_eq_true, Bool.or_eq_true, decide_eq_true_eq, Bool.not_eq_true']
  tauto

/-- What ENC holds on. -/
theorem encodeWaits_iff (s : State) :
    encodeWaits s = true ↔ s.row < s.H.toNat ∧
      (s.col < s.L.toNat ∧ (s.col < s.W.toNat ∧ s.pixAnswers = false ∨
          s.snkAnswers = false ∧ 0 < s.col ∧ ∃ x, inByte s = .byte x ∧ x ≠ s.rv) ∨
        s.L.toNat ≤ s.col ∧ 0 < s.L.toNat ∧ s.snkAnswers = false) := by
  unfold encodeWaits byteBreaksRun
  by_cases hc : s.col < s.L.toNat
  · rcases hx : inByte s with x | f <;> simp [hc, Nat.not_le.mpr hc, and_comm]
  · simp [hc, Nat.le_of_not_lt hc]

/-- The block holds on no port that answers: DEC. -/
theorem decodeWaits_false {s : State} (hs : s.srcAnswers = true) (hp : s.pixAnswers = true ∨ s.W.toNat ≤ s.col) :
    decodeWaits s = false := by
  rcases hp with hp | hp
  · simp [decodeWaits, hs, hp]
  · simp [decodeWaits, hs, Nat.not_lt.mpr hp]

/-- The block holds on no port that answers: ENC. -/
theorem encodeWaits_false {s : State} (hs : s.snkAnswers = true) (hp : s.pixAnswers = true ∨ s.W.toNat ≤ s.col) :
    encodeWaits s = false := by
  rcases hp with hp | hp
  · simp [encodeWaits, hs, hp]
  · simp [encodeWaits, hs, Nat.not_lt.mpr hp]

/-- With every port answering the block holds on none. -/
theorem waiting_false {s : State} (h : PortsAnswer s) : waiting s = false := by
  unfold waiting
  split
  · rfl
  · exact decodeWaits_false h.src (.inl h.pix)
  · exact encodeWaits_false h.snk (.inl h.pix)

/-- A block that holds stays as it is. -/
theorem blockStep_waiting {s : State} (h : waiting s = true) : blockStep s = .next s := by simp [blockStep, h]

/-- All an advance of the block can do when it answers next. -/
theorem blockStep_next {s t : State} (h : blockStep s = .next t) :
    ((waiting s = true ∨ s.stat = .idle) ∧ t = s) ∨
    (waiting s = false ∧ s.stat = .busyDec ∧ decodeStep s = .next t) ∨
    (waiting s = false ∧ s.stat = .busyEnc ∧ encodeStep s = .next t) := by
  unfold blockStep at h
  rcases hw : waiting s with _ | _
  · rw [if_neg (by simp [hw])] at h
    rcases hs : s.stat with _ | _ | _
    · rw [hs] at h; cases h; exact .inl ⟨.inr rfl, rfl⟩
    · rw [hs] at h; exact .inr (.inl ⟨rfl, rfl, h⟩)
    · rw [hs] at h; exact .inr (.inr ⟨rfl, rfl, h⟩)
  · rw [if_pos hw] at h; cases h; exact .inl ⟨.inl rfl, rfl⟩

/-- A move that is no setup move is a `START`, a reset, a hold, a change of a port's answering, or a tick. -/
theorem hostStep_next {m : HostMove} {s t : State} (h : hostStep m s = .next t) :
    (m.isSetup = true) ∨
    (∃ op, m = .start op ∧ exec (decodeCommand op) s = .next t) ∨
    (m = .reset ∧ t = resetBlock s) ∨ (m = .hold ∧ t = s) ∨ (m = .tick ∧ blockStep s = .next t) ∨
    (∃ p yes, m = .portAnswers p yes ∧ t = setPortAnswers p yes s) := by
  cases m
  case start op => exact .inr (.inl ⟨op, rfl, h⟩)
  case reset => cases h; exact .inr (.inr (.inl ⟨rfl, rfl⟩))
  case hold => cases h; exact .inr (.inr (.inr (.inl ⟨rfl, rfl⟩)))
  case tick => exact .inr (.inr (.inr (.inr (.inl ⟨rfl, h⟩))))
  case portAnswers p yes => cases h; exact .inr (.inr (.inr (.inr (.inr ⟨p, yes, rfl, rfl⟩))))
  all_goals exact .inl rfl

end Sys2Proof.Machine
end

