-- ==== Sys2Proof/Tests/Slice0.lean ====
section
/-! SUPPORT. The model's own tests, their expected values taken from spec/, and for each statement with hypotheses a state and
operands that meet them. -/

open Sys2Proof Sys2Proof.Machine

namespace Sys2Proof.Tests

/-! ## Ill-formed terms, one for each check (30_encoding.md R81, R82, R91) -/

theorem test_wellFormed_refuses_litLow_above : ¬ WellFormed (.litLow 0x40#8) := by decide
theorem test_wellFormed_refuses_litMid_below : ¬ WellFormed (.litMid 0x3F#8) := by decide
theorem test_wellFormed_refuses_litMid_above : ¬ WellFormed (.litMid 0x80#8) := by decide
theorem test_wellFormed_refuses_litHigh_below : ¬ WellFormed (.litHigh 0x7F#8) := by decide
theorem test_wellFormed_refuses_litHigh_above : ¬ WellFormed (.litHigh 0xC0#8) := by decide
theorem test_wellFormed_refuses_run_zero : ¬ WellFormed (.run 0#6 0x05#8) := by decide
theorem test_wellFormed_takes_the_bounds :
    WellFormed (.litLow 0x3F#8) ∧ WellFormed (.litMid 0x7F#8) ∧ WellFormed (.litHigh 0xBF#8) ∧
      WellFormed .litC0 ∧ WellFormed (.run 63#6 0xFF#8) ∧ WellFormed .decode ∧ WellFormed .encode := by decide

/-! ## Decoding, words written out from 30_encoding.md R81, R82, R86, R90 and 95_test_vectors.md 2.1 -/

theorem test_decode_litLow : decodeToken [0b00000000#8, 0x99#8] = .token (.litLow 0x00#8) [0x99#8] := by decide
theorem test_decode_litMid : decodeToken [0b01111111#8] = .token (.litMid 0x7F#8) [] := by decide
theorem test_decode_litHigh : decodeToken [0b10000000#8] = .token (.litHigh 0x80#8) [] := by decide
theorem test_decode_litC0 : decodeToken [0b11000000#8, 0x07#8] = .token .litC0 [0x07#8] := by decide
theorem test_decode_run : decodeToken [0b11100000#8, 0x11#8] = .token (.run 32#6 0x11#8) [] := by decide
theorem test_decode_run_value_looks_like_marker :
    decodeToken [0b11000001#8, 0xFF#8, 0x01#8] = .token (.run 1#6 0xFF#8) [0x01#8] := by decide
theorem test_decode_lone_marker : decodeToken [0xC5#8] = .eofValue := by decide
theorem test_decode_nothing : decodeToken [] = .eofToken := by decide
theorem test_decode_commands : decode (.command 0b0#1) = .token .decode [] ∧ decode (.command 0b1#1) = .token .encode [] := by
  decide
theorem test_encode_run : encode (.run 2#6 0x0A#8) = .stream [0xC2#8, 0x0A#8] := by decide

/-! ## Small states -/

/-- A state ready for a launch of a 2 by 1 picture, `BPL` = 2. -/
def ready : State :=
  { State.reset with
    width := 2#16, height := 1#16, bpl := 2#16, widthSet := true, heightSet := true, bplSet := true, pixSize := 2 }

/-- The same with both bytes of the picture written. -/
def readyInput : State := { ready with pix := [(0, 0x0A#8), (1, 0x0A#8)] }

/-- DEC at the start of line 0 of a 2 by 1 picture, the source holding `C2 0A` (95_test_vectors.md S1). -/
def decoding : State :=
  { ready with stat := .busyDec, W := 2#16, H := 1#16, L := 2#16, src := [0xC2#8, 0x0A#8] }

/-- ENC at the start of row 0 of a 2 by 1 picture. -/
def encoding : State := { readyInput with stat := .busyEnc, W := 2#16, H := 1#16, L := 2#16 }

/-- The state a step or a meaning answers, if it does. -/
def answered (o : Out) : Option State :=
  match o with
  | .next t => some t
  | .fault _ => none
  | .refused _ => none

/-! ## One step of each instruction -/

/-- 95_test_vectors.md DV5, step 2: a padding column is dropped. -/
theorem test_lit_in_the_padding :
    (answered (exec (.litMid 0x55#8) { decoding with W := 3#16, H := 2#16, L := 4#16, col := 3, wp := 3 })).map
      (fun t => (t.col, t.wp, t.pix)) = some (4, 3, []) := by decide

/-- 95_test_vectors.md DV1: the literal 192. -/
theorem test_lit_c0_is_written :
    (answered (exec .litC0 { decoding with W := 3#16, L := 3#16, pixSize := 3, col := 2, wp := 2 })).map
      (fun t => (t.col, t.wp, t.pix)) = some (3, 3, [(2, 0xC0#8)]) := by decide

/-- 95_test_vectors.md P2, step 2: the literal 0 in the padding. -/
theorem test_lit_low :
    (answered (exec (.litLow 0x00#8) { decoding with W := 3#16, L := 4#16, col := 3, wp := 3 })).map
      (fun t => (t.col, t.wp, t.n, t.v)) = some (4, 3, 1#6, 0x00#8) := by decide

/-- 95_test_vectors.md S2: `LIT AA`. -/
theorem test_lit_high :
    (answered (exec (.litHigh 0xAA#8) { decoding with H := 2#16, pixSize := 4, col := 1, wp := 1 })).map
      (fun t => (t.col, t.wp, t.pix)) = some (2, 2, [(1, 0xAA#8)]) := by decide

/-- 95_test_vectors.md DV6, step 1: the repetition past the line end is dropped. -/
theorem test_run_past_the_line :
    (answered (exec (.run 3#6 0x09#8) { decoding with H := 2#16, pixSize := 4 })).map
      (fun t => (t.col, t.wp, t.pix)) = some (3, 2, [(0, 0x09#8), (1, 0x09#8)]) := by decide

/-- 95_test_vectors.md DV8, step 1: `L < W`, the repetition at column 2 is written. -/
theorem test_run_past_a_narrow_line :
    (answered (step { decoding with W := 3#16, H := 2#16, pixSize := 6, src := [0xC4#8, 0x08#8] })).map
      (fun t => (t.col, t.wp, t.srcPos)) = some (4, 3, 2) := by decide

/-- 95_test_vectors.md P3, step 3: the source ends after a marker byte. -/
theorem test_source_ends_at_a_value :
    (answered (step { decoding with col := 1, wp := 1, src := [0x22#8, 0xC2#8], srcPos := 1 })).map
      (fun t => (t.ok, t.cause, t.stat, t.srcPos, t.n)) =
      some (false, .eofValue, .idle, 2, 2#6) := by decide

/-- 20_memory.md R57: a source that does not answer holds the block. -/
theorem test_source_without_an_answer_holds :
    (answered (step { decoding with srcAnswers := false })).map (fun t => (t.stat, t.col, t.srcPos)) =
      some (.busyDec, 0, 0) := by decide

/-- 40_decoder.md R111: the start of DECODE. -/
theorem test_decode_start :
    (answered (exec .decode { ready with wp := 9, row := 9 })).map (fun t => (t.stat, t.W, t.H, t.L, t.wp, t.row)) =
      some (.busyDec, 2#16, 1#16, 2#16, 0, 0) := by decide

/-- 41_encoder.md R141: the start of ENCODE. -/
theorem test_encode_start :
    (answered (exec .encode { readyInput with cnt := 9, row := 9 })).map (fun t => (t.stat, t.cnt, t.row)) =
      some (.busyEnc, 0, 0) := by decide

/-- 95_test_vectors.md E8: the run `C8 C8` is emitted when `C9` breaks it. -/
theorem test_encode_breaks_a_run :
    (answered (step { encoding with pix := [(0, 0xC8#8), (1, 0xC9#8)], col := 1, rv := 0xC8#8, rl := 2 })).map
      (fun t => (t.snk, t.cnt, t.rv, t.rl, t.col)) = some ([0xC2#8, 0xC8#8], 2, 0xC9#8, 1, 2) := by decide

/-! ## EMIT and the functions (95_test_vectors.md 2.2, 2.3) -/

theorem test_emit_64 : emitBytes 0x07#8 64 = [0xFF#8, 0x07#8, 0xC1#8, 0x07#8] := by decide
theorem test_emit_126 : emitBytes 0x05#8 126 = [0xFF#8, 0x05#8, 0xFF#8, 0x05#8] := by decide
theorem test_emit_lone_192_and_193 : emitBytes 0xC0#8 1 = [0xC0#8] ∧ emitBytes 0xC1#8 1 = [0xC1#8, 0xC1#8] := by decide
theorem test_decodeFrame_dv6 :
    ListModel.decodeFrame 2 2 2 [0xC3#8, 0x09#8, 0x01#8, 0x02#8] = some ([], [0x09#8, 0x09#8, 0x01#8, 0x02#8]) := by decide
theorem test_decodeFrame_of_a_64_chunk : ListModel.decodeFrame 64 1 64 [0xC0#8, 0x07#8] = none := by decide
theorem test_encodeFrame_e21 :
    ListModel.encodeFrame (fun _ _ => 0xEE#8) (fun a => if a = 0 then 0xEE#8 else 0x01#8) 1 2 3 =
      [0xC3#8, 0xEE#8, 0x01#8, 0xC2#8, 0xEE#8] := by decide

/-! ## The host's words (log 14) -/

theorem test_decodeTableWord_rows :
    decodeTableWord 8 0x40 = some (.litMid 0x40#8) ∧ decodeTableWord 8 0xC0 = some .litC0 ∧
      decodeTableWord 16 0xC5FF = some (.run 5#6 0xFF#8) ∧ decodeTableWord 8 0 = some .decode ∧
      decodeTableWord 8 1 = some .encode := by decide

theorem test_withFetchWord_runs_a_token :
    (answered (step (State.reset.withFetchWord 16 0xC5FF))).map (fun t => (t.n, t.v, t.srcPos)) =
      some (5#6, 0xFF#8, 2) := by decide

theorem test_withFetchWord_runs_a_command :
    (answered (step (State.reset.withFetchWord 8 1))).map (fun t => t.stat) = some .busyEnc := by decide

/-! ## Witnesses: the hypotheses of each statement are met -/

theorem witness_EncodeThenDecodeGivesTheInstructionBack : WellFormed (.run 63#6 0xFF#8) := by decide

theorem witness_DecodedTokenSpellsItsBytes :
    decodeToken [0xFF#8, 0xC0#8, 0x01#8] = .token (.run 63#6 0xC0#8) [0x01#8] := by decide

theorem witness_MarkerByteAndRunLengthAgree_marker : 192 < (0xC1#8 : Byte).toNat := by decide
theorem witness_MarkerByteAndRunLengthAgree_length : (63#6 : BitVec 6) ≠ 0 := by decide

theorem witness_DecoderFollowsTheTableInOrder : decodeToken (0xC0#8 :: [0x07#8]) = .token .litC0 [0x07#8] := by decide

theorem witness_LiteralTokenExecutes_written :
    IsLiteral (.litLow 0x3F#8) 0x3F#8 ∧ ({ decoding with col := 1, wp := 1 } : State).col < decoding.W.toNat ∧
      ({ decoding with col := 1, wp := 1 } : State).wp < decoding.pixSize := ⟨.inl rfl, by decide, by decide⟩
theorem witness_LiteralTokenExecutes_dropped :
    IsLiteral .litC0 0xC0#8 ∧ decoding.W.toNat ≤ ({ decoding with col := 2 } : State).col :=
  ⟨.inr (.inr (.inr ⟨rfl, rfl⟩)), by decide⟩

theorem witness_RunTokenExecutes_written :
    decoding.wp + min (2#6 : BitVec 6).toNat (decoding.W.toNat - decoding.col) ≤ decoding.pixSize := by decide
theorem witness_RunTokenExecutes_dropped : decoding.W.toNat ≤ ({ decoding with col := 2, wp := 9 } : State).col := by decide

theorem witness_TokenFrame :
    (Instr.run 2#6 0x0A#8).isToken = true ∧ ∃ t, exec (.run 2#6 0x0A#8) decoding = .next t := ⟨rfl, _, rfl⟩

theorem witness_TokenOutsideTheBufferFaults :
    (Instr.run 2#6 0x0A#8).isToken = true ∧
      0 < writtenCount (weight (.run 2#6 0x0A#8)) decoding.W.toNat decoding.col ∧
      ({ decoding with pixSize := 1 } : State).pixSize <
        decoding.wp + writtenCount (weight (.run 2#6 0x0A#8)) decoding.W.toNat decoding.col := by decide

theorem ready_launchReady : LaunchReady ready := ⟨rfl, rfl, rfl, rfl, by decide, rfl⟩

theorem readyInput_launchReady : LaunchReady readyInput := ⟨rfl, rfl, rfl, rfl, by decide, rfl⟩

theorem readyInput_inputIs : InputIs readyInput (fun _ => 0x0A#8) := by
  have h : ∀ a, a < 2 → Memory.read readyInput.pix a = some 0x0A#8 := by decide
  exact fun a ha => h a ha

theorem witness_DecodeStartIsAccepted : LaunchReady ready := ready_launchReady

theorem witness_EncodeStartIsAccepted : LaunchReady readyInput ∧ InputIs readyInput (fun _ => 0x0A#8) :=
  ⟨readyInput_launchReady, readyInput_inputIs⟩

theorem witness_StartWhileBusyChangesNothing : decoding.stat ≠ .idle ∧ encoding.stat ≠ .idle := by decide

theorem witness_LaunchWithoutAPremise_configured :
    ({ ready with bplSet := false } : State).stat = .idle ∧
      ¬ (ready.widthSet = true ∧ ready.heightSet = true ∧ ({ ready with bplSet := false } : State).bplSet = true) := by decide
theorem witness_LaunchWithoutAPremise_buffer :
    (ready.widthSet = true ∧ ready.heightSet = true ∧ ready.bplSet = true) ∧
      ({ ready with pixSize := 1 } : State).pixSize < ready.width.toNat * ready.height.toNat := by decide
theorem witness_LaunchWithoutAPremise_ports :
    (ready.widthSet = true ∧ ready.heightSet = true ∧ ready.bplSet = true) ∧
      ready.width.toNat * ready.height.toNat ≤ ready.pixSize ∧ ({ ready with disjoint := false } : State).disjoint = false := by
  decide
theorem witness_LaunchWithoutAPremise_input :
    LaunchReady ready ∧ ∃ a, a < ready.width.toNat * ready.height.toNat ∧ Memory.read ready.pix a = none :=
  ⟨ready_launchReady, 1, by decide, rfl⟩

theorem witness_StartFrame : (∃ t, exec .decode ready = .next t) ∧ ∃ t, exec .encode readyInput = .next t :=
  ⟨⟨_, rfl⟩, ⟨_, rfl⟩⟩

theorem witness_StepRunsTheDecodedToken :
    BlockMoves decoding ∧ decoding.stat = .busyDec ∧ decoding.row < decoding.H.toNat ∧ decoding.col < decoding.L.toNat ∧
      decoding.srcAnswers = true ∧ BufferAnswers decoding ∧
      decodeToken (decoding.src.drop decoding.srcPos) = .token (.run 2#6 0x0A#8) [] ∧
      decoding.src[decoding.srcPos]? = some 0xC2#8 :=
  ⟨.inl rfl, rfl, by decide, by decide, rfl, .inl rfl, by decide, rfl⟩

theorem witness_StepRunsTheDecodedToken_padding :
    BufferAnswers { decoding with W := 0#16, pixAnswers := false } := .inr (by decide)

theorem witness_StepRunsTheStartedOperation :
    ({ ready with inbox := [.start 0#1] } : State).inbox = .start 0#1 :: [] ∧
      ({ readyInput with inbox := [.start 1#1] } : State).inbox = .start 1#1 :: [] := ⟨rfl, rfl⟩

theorem witness_EndOfSourceAtATokenFetch :
    BlockMoves { decoding with srcPos := 2 } ∧ decoding.stat = .busyDec ∧ decoding.row < decoding.H.toNat ∧
      decoding.col < decoding.L.toNat ∧ ({ decoding with srcPos := 2 } : State).srcAnswers = true ∧
      decoding.src.length ≤ ({ decoding with srcPos := 2 } : State).srcPos :=
  ⟨.inl rfl, rfl, by decide, by decide, rfl, by decide⟩

theorem witness_EndOfSourceAtAValueFetch :
    BlockMoves { decoding with src := [0xC1#8] } ∧ decoding.stat = .busyDec ∧ decoding.row < decoding.H.toNat ∧
      decoding.col < decoding.L.toNat ∧ ({ decoding with src := [0xC1#8] } : State).srcAnswers = true ∧
      ({ decoding with src := [0xC1#8] } : State).src[decoding.srcPos]? = some 0xC1#8 ∧
      192 < (0xC1#8 : Byte).toNat ∧ ({ decoding with src := [0xC1#8] } : State).src.length = decoding.srcPos + 1 :=
  ⟨.inl rfl, rfl, by decide, by decide, rfl, rfl, by decide, rfl⟩

theorem witness_FullLineEnds :
    BlockMoves { decoding with col := 2 } ∧ decoding.stat = .busyDec ∧ decoding.row < decoding.H.toNat ∧
      decoding.L.toNat ≤ ({ decoding with col := 2 } : State).col := ⟨.inl rfl, rfl, by decide, by decide⟩

theorem witness_DecodeEndsAfterTheLastLine :
    BlockMoves { decoding with row := 1, inbox := [.tick] } ∧ decoding.stat = .busyDec ∧
      decoding.H.toNat ≤ ({ decoding with row := 1, inbox := [.tick] } : State).row :=
  ⟨.inr ⟨[], rfl⟩, rfl, by decide⟩

theorem witness_EncoderTakesAByte_opens :
    BlockMoves encoding ∧ encoding.stat = .busyEnc ∧ encoding.row < encoding.H.toNat ∧ encoding.col < encoding.L.toNat ∧
      BufferAnswers encoding ∧ InByteIs encoding 0x0A#8 ∧ encoding.col = 0 :=
  ⟨.inl rfl, rfl, by decide, by decide, .inl rfl, .inl (by decide), rfl⟩
theorem witness_EncoderTakesAByte_extends :
    InByteIs { encoding with col := 1, rv := 0x0A#8, rl := 1 } 0x0A#8 ∧
      0 < ({ encoding with col := 1, rv := 0x0A#8, rl := 1 } : State).col ∧
      0x0A#8 = ({ encoding with col := 1, rv := 0x0A#8, rl := 1 } : State).rv := ⟨.inl (by decide), by decide, rfl⟩
theorem witness_EncoderTakesAByte_breaks :
    InByteIs { encoding with col := 1, rv := 0x0B#8, rl := 1 } 0x0A#8 ∧
      0 < ({ encoding with col := 1, rv := 0x0B#8, rl := 1 } : State).col ∧
      0x0A#8 ≠ ({ encoding with col := 1, rv := 0x0B#8, rl := 1 } : State).rv ∧
      ({ encoding with col := 1, rv := 0x0B#8, rl := 1 } : State).snkAnswers = true :=
  ⟨.inl (by decide), by decide, by decide, rfl⟩
theorem witness_EncoderTakesAByte_padding :
    BufferAnswers { encoding with L := 3#16, col := 2, pixAnswers := false } ∧
      InByteIs { encoding with L := 3#16, col := 2, pixAnswers := false } (Config.padByte 0 2) :=
  ⟨.inr (by decide), .inr ⟨by decide, rfl⟩⟩

theorem witness_EncoderEndsARow_full :
    BlockMoves { encoding with col := 2 } ∧ encoding.stat = .busyEnc ∧ encoding.row < encoding.H.toNat ∧
      encoding.L.toNat ≤ ({ encoding with col := 2 } : State).col ∧ 0 < encoding.L.toNat ∧
      ({ encoding with col := 2 } : State).snkAnswers = true :=
  ⟨.inl rfl, rfl, by decide, by decide, by decide, rfl⟩
theorem witness_EncoderEndsARow_empty :
    ({ encoding with L := 0#16 } : State).L.toNat ≤ encoding.col ∧ ({ encoding with L := 0#16 } : State).L.toNat = 0 := by decide

theorem witness_EncodeEndsAfterTheLastRow :
    BlockMoves { encoding with row := 1 } ∧ encoding.stat = .busyEnc ∧
      encoding.H.toNat ≤ ({ encoding with row := 1 } : State).row := ⟨.inl rfl, rfl, by decide⟩

theorem witness_BlockWaitsAndHolds_waits : ready.stat = .idle ∧ BlockMoves ready := ⟨rfl, .inl rfl⟩
theorem witness_BlockWaitsAndHolds_holds : ({ decoding with inbox := [.hold] } : State).inbox = .hold :: [] := rfl

theorem witness_BlockWaitsAndHolds_ports :
    ({ decoding with inbox := [.portAnswers .source false] } : State).inbox = .portAnswers .source false :: [] ∧
      ({ encoding with inbox := [.portAnswers .sink true] } : State).inbox = .portAnswers .sink true :: [] ∧
      ({ encoding with inbox := [.portAnswers .buffer false] } : State).inbox = .portAnswers .buffer false :: [] :=
  ⟨rfl, rfl, rfl⟩

theorem witness_UnansweredPortHoldsTheBlock_source :
    BlockMoves { decoding with srcAnswers := false } ∧ decoding.stat = .busyDec ∧ decoding.row < decoding.H.toNat ∧
      decoding.col < decoding.L.toNat ∧ ({ decoding with srcAnswers := false } : State).srcAnswers = false ∧
      ({ decoding with srcAnswers := false } : State).inbox = [] := ⟨.inl rfl, rfl, by decide, by decide, rfl, rfl⟩
theorem witness_UnansweredPortHoldsTheBlock_write :
    BlockMoves { decoding with pixAnswers := false } ∧ decoding.col < decoding.W.toNat ∧
      decodeToken (decoding.src.drop decoding.srcPos) = .token (.run 2#6 0x0A#8) [] ∧
      ({ decoding with pixAnswers := false } : State).pixAnswers = false := ⟨.inl rfl, by decide, by decide, rfl⟩
theorem witness_UnansweredPortHoldsTheBlock_read :
    BlockMoves { encoding with pixAnswers := false } ∧ encoding.stat = .busyEnc ∧ encoding.row < encoding.H.toNat ∧
      encoding.col < encoding.L.toNat ∧ encoding.col < encoding.W.toNat ∧
      ({ encoding with pixAnswers := false } : State).pixAnswers = false :=
  ⟨.inl rfl, rfl, by decide, by decide, by decide, rfl⟩
theorem witness_UnansweredPortHoldsTheBlock_break :
    InByteIs { encoding with col := 1, rv := 0x0B#8, rl := 1, snkAnswers := false } 0x0A#8 ∧
      0 < ({ encoding with col := 1, rv := 0x0B#8, rl := 1, snkAnswers := false } : State).col ∧
      0x0A#8 ≠ ({ encoding with col := 1, rv := 0x0B#8, rl := 1, snkAnswers := false } : State).rv :=
  ⟨.inl (by decide), by decide, by decide⟩
theorem witness_UnansweredPortHoldsTheBlock_row :
    BlockMoves { encoding with col := 2, snkAnswers := false } ∧
      encoding.L.toNat ≤ ({ encoding with col := 2, snkAnswers := false } : State).col ∧ 0 < encoding.L.toNat :=
  ⟨.inl rfl, by decide, by decide⟩

theorem witness_HostConfiguresInIdle :
    ready.stat = .idle ∧ ({ ready with inbox := [.setWidth 0xFFFF#16] } : State).inbox = .setWidth 0xFFFF#16 :: [] ∧
      ({ ready with inbox := [.setHeight 0#16] } : State).inbox = .setHeight 0#16 :: [] ∧
      ({ ready with inbox := [.setBpl 1#16] } : State).inbox = .setBpl 1#16 :: [] := ⟨rfl, rfl, rfl, rfl⟩

theorem witness_HostGivesThePorts :
    ready.stat = .idle ∧ ({ ready with inbox := [.giveBuffer 0] } : State).inbox = .giveBuffer 0 :: [] ∧
      ({ ready with inbox := [.writePix 1 0#8] } : State).inbox = .writePix 1 0#8 :: [] ∧ 1 < ready.pixSize ∧
      ({ ready with inbox := [.writePix 2 0#8] } : State).inbox = .writePix 2 0#8 :: [] ∧ ready.pixSize ≤ 2 ∧
      ({ ready with inbox := [.giveSource [0x05#8] 1] } : State).inbox = .giveSource [0x05#8] 1 :: [] ∧
      ({ ready with inbox := [.giveSink []] } : State).inbox = .giveSink [] :: [] ∧
      ({ ready with inbox := [.wirePorts false] } : State).inbox = .wirePorts false :: [] :=
  ⟨rfl, rfl, rfl, by decide, rfl, by decide, rfl, rfl, rfl⟩

theorem witness_HostMoveWhileBusyIsRefused :
    decoding.stat ≠ .idle ∧ ({ decoding with inbox := [.setWidth 1#16] } : State).inbox = .setWidth 1#16 :: [] ∧
      ({ decoding with inbox := [.writePix 0 0#8] } : State).inbox = .writePix 0 0#8 :: [] ∧
      ({ encoding with inbox := [.giveSink []] } : State).inbox = .giveSink [] :: [] ∧
      ({ encoding with inbox := [.wirePorts false] } : State).inbox = .wirePorts false :: [] :=
  ⟨by decide, rfl, rfl, rfl, rfl⟩

theorem witness_ResetBringsIdleAndTouchesNoPort :
    ({ decoding with inbox := [.reset] } : State).inbox = .reset :: [] := rfl

theorem witness_FieldsReadAsTheirCodes :
    State.reset.stat = .idle ∧ decoding.stat = .busyDec ∧ encoding.stat = .busyEnc ∧ State.reset.cause = .none ∧
      (raiseSourceExhausted .eofToken decoding).cause = .eofToken ∧
      (raiseSourceExhausted .eofValue decoding).cause = .eofValue ∧
      (finishDecode decoding).ok = true ∧ (raiseSourceExhausted .eofToken decoding).ok = false := by decide

theorem witness_StateMovesAsListed :
    (∃ t, step { ready with inbox := [.start 0#1] } = .next t ∧ t.stat = .busyDec) ∧
    (∃ t, step { readyInput with inbox := [.start 1#1] } = .next t ∧ t.stat = .busyEnc) ∧
    (∃ t, step { decoding with row := 1 } = .next t ∧ t.stat = .idle) ∧
    (∃ t, step { decoding with srcPos := 2 } = .next t ∧ t.stat = .idle) ∧
    ∃ t, step { encoding with row := 1 } = .next t ∧ t.stat = .idle :=
  ⟨⟨_, rfl, rfl⟩, ⟨_, rfl, rfl⟩, ⟨_, rfl, rfl⟩, ⟨_, rfl, rfl⟩, ⟨_, rfl, rfl⟩⟩

theorem decoding_noReset : NoReset decoding := fun _ h => by cases h

theorem witness_GeometryIsKeptWhileBusy :
    decoding.stat ≠ .idle ∧ NoReset decoding ∧ ∃ t, step decoding = .next t := ⟨by decide, decoding_noReset, _, rfl⟩

theorem witness_UnitsKeepToTheirPorts :
    (∃ t, step decoding = .next t) ∧ decoding.stat = .busyDec ∧ (∃ t, step encoding = .next t) ∧ encoding.stat = .busyEnc :=
  ⟨⟨_, rfl⟩, rfl, ⟨_, rfl⟩, rfl⟩

theorem witness_SourcePositionOnlyMovesForward : decoding.stat ≠ .idle ∧ ∃ t, step decoding = .next t ∧ t.srcPos = 2 :=
  ⟨by decide, _, rfl, rfl⟩

theorem witness_SinkIsAppendedAndCounted :
    encoding.stat ≠ .idle ∧ NoReset encoding ∧ ∃ t, step encoding = .next t :=
  ⟨by decide, fun _ h => (by cases h), _, rfl⟩

theorem witness_DecodeWritesAtTheCursor :
    decoding.stat = .busyDec ∧ NoReset decoding ∧ ∃ t, step decoding = .next t ∧ decoding.wp < t.wp :=
  ⟨rfl, decoding_noReset, _, rfl, by decide⟩

theorem decoding_inv : Inv decoding where
  pix := ⟨List.Pairwise.nil, fun x hx => by cases hx⟩
  dec _ := ⟨by decide, by decide, by decide, by decide, by decide⟩
  enc h := by cases h

/-- ENC at the end of a row, a run in hand. -/
def rowDone : State := { encoding with col := 2, rv := 0x0A#8, rl := 2 }

theorem rowDone_inv : Inv rowDone where
  pix := by constructor <;> decide
  dec h := by cases h
  enc _ := by
    refine ⟨by decide, ?_, by decide, by decide, by decide, by decide, by decide, by decide⟩
    have h : ∀ a, a < 2 → (Memory.read rowDone.pix a).isSome = true := by decide
    exact fun a ha => h a ha

theorem witness_EveryStepKeepsTheInvariant :
    (Inv decoding ∧ ∃ t, step decoding = .next t) ∧ Inv rowDone ∧ ∃ t, step rowDone = .next t :=
  ⟨⟨decoding_inv, _, rfl⟩, rowDone_inv, _, rfl⟩

theorem witness_NoStepFaults : Inv decoding ∧ Inv rowDone := ⟨decoding_inv, rowDone_inv⟩

theorem decoding_portsAnswer : PortsAnswer decoding := ⟨rfl, rfl, rfl⟩

theorem rowDone_portsAnswer : PortsAnswer rowDone := ⟨rfl, rfl, rfl⟩

theorem witness_BlockAlwaysGoesOn :
    (Inv decoding ∧ BlockMoves decoding ∧ PortsAnswer decoding ∧ decoding.stat ≠ .idle) ∧
      Inv rowDone ∧ BlockMoves rowDone ∧ PortsAnswer rowDone ∧ rowDone.stat ≠ .idle :=
  ⟨⟨decoding_inv, .inl rfl, decoding_portsAnswer, by decide⟩, rowDone_inv, .inl rfl, rowDone_portsAnswer, by decide⟩

theorem witness_CountersFitTheirWidths :
    (Inv decoding ∧ decoding.stat = .busyDec) ∧ Inv rowDone ∧ rowDone.stat = .busyEnc ∧ 0 < rowDone.col :=
  ⟨⟨decoding_inv, rfl⟩, rowDone_inv, rfl, by decide⟩

theorem witness_EveryOperationEnds :
    (Inv decoding ∧ PortsAnswer decoding ∧ decoding.inbox = []) ∧ Inv rowDone ∧ PortsAnswer rowDone ∧ rowDone.inbox = [] :=
  ⟨⟨decoding_inv, decoding_portsAnswer, rfl⟩, rowDone_inv, rowDone_portsAnswer, rfl⟩

/-- A launch of DECODE over the source `C2 0A`, and over the source `C2`. -/
def launching (bytes : List Byte) : State := { ready with src := bytes, inbox := [.start 0#1] }

theorem launching_launchReady (bytes : List Byte) : LaunchReady (launching bytes) :=
  ⟨rfl, rfl, rfl, rfl, ready_launchReady.buffer, rfl⟩

theorem launching_portsAnswer (bytes : List Byte) : PortsAnswer (launching bytes) := ⟨rfl, rfl, rfl⟩

theorem witness_DecodeComputesItsFunction :
    LaunchReady (launching [0xC2#8, 0x0A#8]) ∧ PortsAnswer (launching [0xC2#8, 0x0A#8]) ∧
      (launching [0xC2#8, 0x0A#8]).inbox = [.start 0#1] ∧
      ListModel.decodeFrame ready.width.toNat ready.height.toNat ready.bpl.toNat [0xC2#8, 0x0A#8] =
        some ([], [0x0A#8, 0x0A#8]) := ⟨launching_launchReady _, launching_portsAnswer _, rfl, by decide⟩

theorem witness_DecodeFailsWhenItsFunctionHasNoResult :
    LaunchReady (launching [0xC2#8]) ∧ PortsAnswer (launching [0xC2#8]) ∧ (launching [0xC2#8]).inbox = [.start 0#1] ∧
      ListModel.decodeFrame ready.width.toNat ready.height.toNat ready.bpl.toNat [0xC2#8] = none :=
  ⟨launching_launchReady _, launching_portsAnswer _, rfl, by decide⟩

theorem witness_EncodeComputesItsFunction :
    LaunchReady { readyInput with inbox := [.start 1#1] } ∧
      InputIs { readyInput with inbox := [.start 1#1] } (fun _ => 0x0A#8) ∧
      PortsAnswer { readyInput with inbox := [.start 1#1] } ∧
      ({ readyInput with inbox := [.start 1#1] } : State).inbox = [.start 1#1] :=
  ⟨⟨rfl, rfl, rfl, rfl, by decide, rfl⟩, readyInput_inputIs, ⟨rfl, rfl, rfl⟩, rfl⟩

theorem witness_RoundTripRestoresThePicture : 3 ≤ 4 ∧ 3 ≤ 3 := by decide
theorem witness_RoundTripPacksNarrowLines : 2 < 3 := by decide

theorem witness_LineExactStreamDecodes :
    ListModel.LineExactBy 1 2 [[.run 2#6 0x0A#8]] [0xC2#8, 0x0A#8] := by
  refine ⟨rfl, fun g hg => ?_, by decide⟩
  cases List.mem_singleton.mp hg
  exact ⟨by decide, by decide⟩

theorem witness_EmissionIsTheFlushLoop : 1 ≤ 1 ∧ 1 ≤ 64 := by decide
theorem witness_LongRunIsCutGreedily : 1 ≤ 1 ∧ 1 ≤ 126 := by decide
theorem witness_LoneSmallValueIsRawAndTheRestAreRuns :
    (1 ≤ 1 ∧ 1 = 1 ∧ (0xC0#8 : Byte).toNat ≤ 192) ∧ 1 ≤ 1 ∧ ¬ (1 = 1 ∧ (0xC1#8 : Byte).toNat ≤ 192) := by decide
theorem witness_EncodedSizeIsBounded : 1 ≤ 1 := by decide

theorem witness_DecodedSizeIsBounded :
    ListModel.decodeFrame 2 1 2 [0xC2#8, 0x0A#8] = some ([], [0x0A#8, 0x0A#8]) ∧ 2 ≤ 2 := by decide

theorem witness_ZeroGeometryDoesNothing :
    ListModel.decodeFrame 0 1 3 [0xC2#8, 0x05#8, 0x06#8] = some ([], []) := by decide

end Sys2Proof.Tests
end

section
/-! PROOFS. The statements on the state and on what a step may change in it (10_state.md): the frame of a step of each unit, all
that a step of a busy block and of an idle block can do, and from these the obligations. -/

namespace Sys2Proof.Machine

/-! ## One step, forward -/

/-- With a move due, a step is that move, taken off the inbox. -/
theorem step_of_move {s : State} {m : HostMove} {rest : List HostMove} (h : s.inbox = m :: rest) :
    step s = hostStep m { s with inbox := rest } := by
  simp only [step, advance, h]

@[simp] theorem whenIdle_of_idle {s : State} (h : s.stat = .idle) (o : Out) : whenIdle s o = o := if_pos h

theorem blockStep_idle {s : State} (h : s.stat = .idle) : blockStep s = .next s := by
  simp [blockStep, waiting, h]

theorem blockStep_idle_stat {s t : State} (h : blockStep s = .next t) (hs : s.stat = .idle) : t.stat = .idle := by
  rw [blockStep_idle hs] at h; cases h; exact hs

theorem waiting_busyDec {s : State} (h : s.stat = .busyDec) : waiting s = decodeWaits s := by simp [waiting, h]

theorem execDecode_busy {s : State} (h : s.stat ≠ .idle) : execDecode s = .next s := if_neg h

theorem execEncode_busy {s : State} (h : s.stat ≠ .idle) : execEncode s = .next s := if_neg h

/-! ## The frame of a step of DEC -/

/-- What no step of DEC changes. -/
structure DecodeFrame (s t : State) : Prop where
  /-- the host's fields -/
  host : SameHostSide s t
  /-- the latched geometry -/
  geometry : SameGeometry s t
  /-- the registers of ENC -/
  enc : SameEncRegisters s t
  /-- the bytes of the sink -/
  snk : t.snk = s.snk

/-- A change of the registers of DEC, the counters, `PIX`, the source position, `STATE` and the results only keeps the frame. -/
theorem DecodeFrame.of_update {s t : State}
    (h : t = { s with
      row := t.row, col := t.col, wp := t.wp, b := t.b, n := t.n, v := t.v, pix := t.pix, srcPos := t.srcPos,
      stat := t.stat, ok := t.ok, cause := t.cause, count := t.count }) : DecodeFrame s t := by
  rw [h]
  exact ⟨by constructor <;> rfl, by constructor <;> rfl, by constructor <;> rfl, rfl⟩

/-- A token takes at most two bytes of the source (30_encoding.md R85). -/
theorem tokenLength_le_two (i : Instr) : tokenLength i ≤ 2 := by cases i <;> simp [tokenLength]

theorem srcByte_of_remaining_singleton {s : State} {x : Byte} (h : s.remaining = [x]) :
    s.src[s.srcPos]? = some x ∧ s.src.length = s.srcPos + 1 := by
  refine ⟨(remaining_cons h).1, ?_⟩
  have hl : s.src.length - s.srcPos = 1 := by simpa [State.remaining] using congrArg List.length h
  omega

/-- Where DEC may come to its end: the lines are done, or the source, which answers, ends at a token fetch or at a value fetch
(10_state.md R30). -/
def DecodeMayEnd (s : State) : Prop :=
  s.H.toNat ≤ s.row ∨
    s.row < s.H.toNat ∧ s.col < s.L.toNat ∧ s.srcAnswers = true ∧
      (s.src.length ≤ s.srcPos ∨
        ∃ x, s.src[s.srcPos]? = some x ∧ 192 < x.toNat ∧ s.src.length = s.srcPos + 1)

theorem srcAnswers_of_not_decodeWaits {s : State} (hw : decodeWaits s = false) (hrow : s.row < s.H.toNat)
    (hcol : s.col < s.L.toNat) : s.srcAnswers = true := by
  by_contra hs
  have : decodeWaits s = true := (decodeWaits_iff s).mpr ⟨⟨hrow, hcol⟩, .inl (by simpa using hs)⟩
  simp [this] at hw

/-- A step of DEC keeps its frame, and reads at most two bytes of the source. -/
theorem decodeStep_frame {s t : State} (h : decodeStep s = .next t) :
    DecodeFrame s t ∧ s.srcPos ≤ t.srcPos ∧ t.srcPos ≤ s.srcPos + 2 := by
  rcases decodeStep_next h with ⟨i, rest, x, u, -, -, -, -, rfl, w⟩ | ⟨-, -, -, rfl⟩ | ⟨x, -, -, -, -, rfl⟩ |
    ⟨-, -, rfl⟩ | ⟨-, rfl⟩
  · have hi := tokenLength_le_two i
    have hpos : t.srcPos = s.srcPos + tokenLength i := congrArg State.srcPos w.frame
    exact ⟨.of_update (by rw [w.frame]; rfl), by omega, by omega⟩
  all_goals exact ⟨.of_update rfl, by simp, by simp⟩

/-- A step of DEC that calls no unanswering port leaves `STATE`, or ends in `IDLE` where it may. -/
theorem decodeStep_stat {s t : State} (hw : decodeWaits s = false) (h : decodeStep s = .next t) :
    t.stat = s.stat ∨ t.stat = .idle ∧ DecodeMayEnd s := by
  rcases decodeStep_next h with ⟨i, rest, x, u, -, -, -, -, rfl, w⟩ | ⟨hrow, hcol, hr, rfl⟩ | ⟨x, hrow, hcol, hr, hx, rfl⟩ |
    ⟨-, -, rfl⟩ | ⟨hrow, rfl⟩
  · exact .inl (by rw [w.frame]; rfl)
  · exact .inr ⟨rfl, .inr ⟨hrow, hcol, srcAnswers_of_not_decodeWaits hw hrow hcol, .inl (List.drop_eq_nil_iff.mp hr)⟩⟩
  · obtain ⟨hb, hl⟩ := srcByte_of_remaining_singleton hr
    exact .inr ⟨rfl, .inr ⟨hrow, hcol, srcAnswers_of_not_decodeWaits hw hrow hcol, .inr ⟨x, hb, hx, hl⟩⟩⟩
  · exact .inl rfl
  · exact .inr ⟨rfl, .inl hrow⟩

/-! ## The frame of a step of ENC -/

/-- The bytes handed to the sink are appended to it, and `cnt` counts them (41_encoder.md R149). -/
def AppendsCounted (s t : State) : Prop := ∃ bytes, t.snk = s.snk ++ bytes ∧ t.cnt = s.cnt + bytes.length

theorem appendsCounted_of_same {s t : State} (hs : t.snk = s.snk) (hc : t.cnt = s.cnt) : AppendsCounted s t :=
  ⟨[], by simp [hs], by simp [hc]⟩

/-- What no step of ENC changes; and what it does to the sink. -/
structure EncodeFrame (s t : State) : Prop where
  /-- the host's fields -/
  host : SameHostSide s t
  /-- the latched geometry -/
  geometry : SameGeometry s t
  /-- the registers of DEC -/
  dec : SameDecRegisters s t
  /-- the bytes of `PIX` -/
  pix : t.pix = s.pix
  /-- the source position -/
  srcPos : t.srcPos = s.srcPos
  /-- the sink, append only -/
  snk : AppendsCounted s t

/-- A change of the registers of ENC, the counters, the sink, `STATE` and the results only keeps the frame, if `cnt` counts what
the sink takes. -/
theorem EncodeFrame.of_update {s t : State}
    (h : t = { s with
      row := t.row, col := t.col, rv := t.rv, rl := t.rl, cnt := t.cnt, p := t.p, snk := t.snk,
      stat := t.stat, ok := t.ok, cause := t.cause, count := t.count })
    (hsnk : AppendsCounted s t) : EncodeFrame s t := by
  refine ⟨?_, ?_, ?_, ?_, ?_, hsnk⟩ <;> rw [h]
  all_goals constructor <;> rfl

theorem flush_appendsCounted (v : Byte) (len : Nat) (s : State) : AppendsCounted s (flush v len s) := by
  rw [flush_eq]; exact ⟨emitBytes v len, rfl, rfl⟩

theorem takeByte_frame (x : Byte) (s : State) : EncodeFrame s (takeByte x s) ∧ (takeByte x s).stat = s.stat := by
  rcases takeByte_cases x s with ⟨-, h⟩ | ⟨-, -, h⟩ | ⟨-, -, h⟩ <;> rw [h]
  · exact ⟨.of_update rfl (appendsCounted_of_same rfl rfl), rfl⟩
  · exact ⟨.of_update rfl (appendsCounted_of_same rfl rfl), rfl⟩
  · have hsnk : AppendsCounted s (breakRun x s) := flush_appendsCounted s.rv s.rl s
    exact ⟨.of_update (by rw [breakRun, flush_eq]) hsnk, by rw [breakRun, flush_eq]⟩

theorem endEncodeRow_frame (s : State) : EncodeFrame s (endEncodeRow s) ∧ (endEncodeRow s).stat = s.stat := by
  unfold endEncodeRow
  split
  · exact ⟨.of_update (by rw [flush_eq]) (flush_appendsCounted s.rv s.rl s), by rw [flush_eq]⟩
  · exact ⟨.of_update rfl (appendsCounted_of_same rfl rfl), rfl⟩

/-- A step of ENC keeps its frame, and leaves `STATE` or ends in `IDLE` after the last row. -/
theorem encodeStep_frame {s t : State} (h : encodeStep s = .next t) :
    EncodeFrame s t ∧ (t.stat = s.stat ∨ t.stat = .idle ∧ s.H.toNat ≤ s.row) := by
  rcases encodeStep_next h with ⟨x, -, -, -, rfl⟩ | ⟨-, -, rfl⟩ | ⟨hrow, rfl⟩
  · exact (takeByte_frame x s).imp_right .inl
  · exact (endEncodeRow_frame s).imp_right .inl
  · exact ⟨.of_update rfl (appendsCounted_of_same rfl rfl), .inr ⟨rfl, hrow⟩⟩

/-! ## All a step can do, from a busy block and from an idle one -/

/-- The ways a step of a busy block can go. -/
inductive BusyStep (s t : State) : Prop where
  /-- A reset. -/
  | reset (m : List HostMove) (hi : s.inbox = .reset :: m) (ht : t = resetBlock { s with inbox := m })
  /-- A port begins or stops answering. -/
  | answers (p : Port) (yes : Bool) (ht : t = setPortAnswers p yes { s with inbox := s.inbox.tail })
  /-- A `START` that is not accepted, a hold, or a port that does not answer: only the move is used up. -/
  | stays (ht : t = { s with inbox := s.inbox.tail })
  /-- DEC advances. -/
  | dec (hb : BlockMoves s) (hs : s.stat = .busyDec) (hw : decodeWaits { s with inbox := s.inbox.tail } = false)
      (h : decodeStep { s with inbox := s.inbox.tail } = .next t)
  /-- ENC advances. -/
  | enc (hb : BlockMoves s) (hs : s.stat = .busyEnc) (h : encodeStep { s with inbox := s.inbox.tail } = .next t)

/-- An advance of the block is the advance of the unit that runs, or a wait. -/
theorem busyStep_of_blockMoves {s t : State} (hb : BlockMoves s) (h : step s = .next t) : BusyStep s t := by
  rw [step_of_blockMoves hb] at h
  rcases blockStep_next h with ⟨-, ht⟩ | ⟨hw, hd, h⟩ | ⟨-, he, h⟩
  · exact .stays ht
  · exact .dec hb hd (waiting_busyDec hd ▸ hw) h
  · exact .enc hb he h

/-- A `START` of a busy block is not accepted (10_state.md R31). -/
theorem exec_start_busy {s t : State} {op : BitVec 1} (hs : s.stat ≠ .idle) (h : exec (decodeCommand op) s = .next t) :
    t = s := by
  rcases exec_start_next h with ⟨-, h⟩ | ⟨-, h⟩
  · rw [execDecode_busy hs] at h; cases h; rfl
  · rw [execEncode_busy hs] at h; cases h; rfl

/-- All a step of a busy block can do. -/
theorem step_busy {s t : State} (hs : s.stat ≠ .idle) (h : step s = .next t) : BusyStep s t := by
  rcases hi : s.inbox with _ | ⟨m, rest⟩
  · exact busyStep_of_blockMoves (.inl hi) h
  · have hm := h
    rw [step_of_move hi] at hm
    have htail : rest = s.inbox.tail := by rw [hi, List.tail_cons]
    rcases hostStep_next hm with hset | ⟨op, -, hx⟩ | ⟨rfl, ht⟩ | ⟨-, ht⟩ | ⟨rfl, -⟩ | ⟨p, yes, -, ht⟩
    · exact absurd (hostStep_setup hset hm).1 hs
    · exact .stays (htail ▸ exec_start_busy hs hx)
    · exact .reset rest hi ht
    · exact .stays (htail ▸ ht)
    · exact busyStep_of_blockMoves (.inr ⟨rest, hi⟩) h
    · exact .answers p yes (htail ▸ ht)

/-- From `IDLE` a step stays in `IDLE`, or is a `START` accepted by the unit its operand names (10_state.md R30). -/
theorem step_idle_stat {s t : State} (hs : s.stat = .idle) (h : step s = .next t) :
    t.stat = .idle ∨ (∃ m, s.inbox = .start 0#1 :: m ∧ t.stat = .busyDec) ∨
      (∃ m, s.inbox = .start 1#1 :: m ∧ t.stat = .busyEnc) := by
  rcases step_next h with ⟨-, hb⟩ | ⟨m, rest, hi, hm⟩
  · exact .inl (blockStep_idle_stat hb hs)
  · rcases hostStep_next hm with hset | ⟨op, rfl, hx⟩ | ⟨-, rfl⟩ | ⟨-, rfl⟩ | ⟨-, hb⟩ | ⟨p, yes, -, rfl⟩
    · exact .inl (hostStep_setup hset hm).2
    · rcases exec_start_next hx with ⟨rfl, hd⟩ | ⟨rfl, he⟩
      · rcases execDecode_next hd with ⟨-, -, -, -, rfl⟩ | ⟨hbusy, -⟩
        · exact .inr (.inl ⟨rest, hi, rfl⟩)
        · exact absurd hs hbusy
      · rcases execEncode_next he with ⟨-, -, -, -, -, rfl⟩ | ⟨hbusy, -⟩
        · exact .inr (.inr ⟨rest, hi, rfl⟩)
        · exact absurd hs hbusy
    · exact .inl rfl
    · exact .inl hs
    · exact .inl (blockStep_idle_stat hb hs)
    · exact .inl (by simpa using hs)

/-- A step of a busy block leaves `STATE`, or goes to `IDLE` by a reset or by an end of the unit that runs. -/
theorem step_busy_stat {s t : State} (hs : s.stat ≠ .idle) (h : step s = .next t) :
    t.stat = s.stat ∨
      t.stat = .idle ∧ ((∃ m, s.inbox = .reset :: m) ∨
        BlockMoves s ∧ (s.stat = .busyDec ∧ DecodeMayEnd s ∨ s.stat = .busyEnc ∧ s.H.toNat ≤ s.row)) := by
  cases step_busy hs h with
  | reset m hi ht => exact .inr ⟨by rw [ht]; rfl, .inl ⟨m, hi⟩⟩
  | answers p yes ht => exact .inl (by rw [ht, setPortAnswers_stat])
  | stays ht => exact .inl (by rw [ht])
  | dec hb hd hw h =>
    exact (decodeStep_stat hw h).imp id fun ⟨ht, he⟩ => ⟨ht, .inr ⟨hb, .inl ⟨hd, he⟩⟩⟩
  | enc hb he h =>
    exact (encodeStep_frame h).2.imp id fun ⟨ht, hrow⟩ => ⟨ht, .inr ⟨hb, .inr ⟨he, hrow⟩⟩⟩

/-! ## The frame of an accepted START -/

/-- What neither `DECODE` nor `ENCODE` changes as an instruction (10_state.md R38). -/
structure StartFrame (s t : State) : Prop where
  /-- the host's fields -/
  host : SameHostSide s t
  /-- the bytes of `PIX` -/
  pix : t.pix = s.pix
  /-- the source position -/
  srcPos : t.srcPos = s.srcPos
  /-- the bytes of the sink -/
  snk : t.snk = s.snk
  /-- `b` -/
  b : t.b = s.b
  /-- `n` -/
  n : t.n = s.n
  /-- `v` -/
  v : t.v = s.v
  /-- `rv` -/
  rv : t.rv = s.rv
  /-- `rl` -/
  rl : t.rl = s.rl
  /-- `p` -/
  p : t.p = s.p

/-- A change of the geometry, the counters, `wp`, `cnt`, `STATE` and the results only keeps the frame. -/
theorem StartFrame.of_update {s t : State}
    (h : t = { s with
      W := t.W, H := t.H, L := t.L, row := t.row, col := t.col, wp := t.wp, cnt := t.cnt,
      stat := t.stat, ok := t.ok, cause := t.cause, count := t.count, draws := t.draws }) : StartFrame s t := by
  constructor <;> rw [h]
  case host => constructor <;> rfl

theorem execDecode_frame {s t : State} (h : execDecode s = .next t) : StartFrame s t ∧ t.cnt = s.cnt := by
  rcases execDecode_next h with ⟨-, -, -, -, rfl⟩ | ⟨-, rfl⟩ <;> exact ⟨.of_update rfl, rfl⟩

theorem execEncode_frame {s t : State} (h : execEncode s = .next t) : StartFrame s t ∧ t.wp = s.wp := by
  rcases execEncode_next h with ⟨-, -, -, -, -, rfl⟩ | ⟨-, rfl⟩ <;> exact ⟨.of_update rfl, rfl⟩

/-! ## The obligations -/

/-- Settles O33: a step from `IDLE` and a step of a busy block, each read off its inversion lemma. -/
theorem stateMovesAsListed : Obligations.StateMovesAsListed := by
  intro s t h
  rcases hs : s.stat with _ | _ | _
  case idle =>
    rcases step_idle_stat hs h with ht | ⟨m, hi, ht⟩ | ⟨m, hi, ht⟩
    · simp [ht]
    · simp [ht, hi]
    · simp [ht, hi]
  case busyDec =>
    rcases step_busy_stat (by simp [hs]) h with ht | ⟨ht, hr | ⟨hb, he⟩⟩
    · simp [ht, hs]
    · simp [ht, hr]
    · have hend : DecodeMayEnd s := by simpa [hs] using he
      simp only [ht]
      exact ⟨nofun, nofun, nofun, nofun, fun _ _ => .inr ⟨hb, hend⟩, nofun⟩
  case busyEnc =>
    rcases step_busy_stat (by simp [hs]) h with ht | ⟨ht, hr | ⟨hb, he⟩⟩
    · simp [ht, hs]
    · simp [ht, hr]
    · have hend : s.H.toNat ≤ s.row := by simpa [hs] using he
      simp only [ht]
      exact ⟨nofun, nofun, nofun, nofun, nofun, fun _ _ => .inr ⟨hb, hend⟩⟩

/-- Settles O34: only a reset, of all a busy block can do, touches the geometry. -/
theorem geometryIsKeptWhileBusy : Obligations.GeometryIsKeptWhileBusy := by
  intro s t hs hnr h
  cases step_busy hs h with
  | reset m hi _ => exact absurd hi (hnr m)
  | answers p yes ht => subst ht; constructor <;> simp
  | stays ht => subst ht; exact ⟨rfl, rfl, rfl⟩
  | dec _ _ _ h => obtain ⟨hW, hH, hL⟩ := (decodeStep_frame h).1.geometry; exact ⟨hW, hH, hL⟩
  | enc _ _ h => obtain ⟨hW, hH, hL⟩ := (encodeStep_frame h).1.geometry; exact ⟨hW, hH, hL⟩

/-- Settles O36: DEC reads at most a token's two bytes, and nothing else a busy block does moves the source, a reset included. -/
theorem sourcePositionOnlyMovesForward : Obligations.SourcePositionOnlyMovesForward := by
  intro s t hs h
  have unmoved (hsrc : t.src = s.src) (hpos : t.srcPos = s.srcPos) :
      t.src = s.src ∧ s.srcPos ≤ t.srcPos ∧ t.srcPos ≤ s.srcPos + 2 ∧ (s.stat = .busyEnc → t.srcPos = s.srcPos) :=
    ⟨hsrc, by omega, by omega, fun _ => hpos⟩
  cases step_busy hs h with
  | reset m _ ht => subst ht; exact unmoved rfl rfl
  | answers p yes ht => exact unmoved (by simp [ht]) (by simp [ht])
  | stays ht => subst ht; exact unmoved rfl rfl
  | dec _ hd _ h =>
    obtain ⟨hframe, hle, hub⟩ := decodeStep_frame h
    exact ⟨hframe.host.src, hle, hub, fun he => by simp [hd] at he⟩
  | enc _ _ h =>
    have hframe := (encodeStep_frame h).1
    exact unmoved hframe.host.src hframe.srcPos

/-- Settles O37: ENC appends what it counts, and nothing else a busy block does but a reset changes the sink or `cnt`. -/
theorem sinkIsAppendedAndCounted : Obligations.SinkIsAppendedAndCounted := by
  intro s t hs hnr h
  cases step_busy hs h with
  | reset m hi _ => exact absurd hi (hnr m)
  | answers p yes ht => exact appendsCounted_of_same (by simp [ht]) (by simp [ht])
  | stays ht => subst ht; exact appendsCounted_of_same rfl rfl
  | dec _ _ _ h =>
    have hframe := (decodeStep_frame h).1
    exact appendsCounted_of_same hframe.snk hframe.enc.cnt
  | enc _ _ h => exact (encodeStep_frame h).1.snk

/-- Settles O14: neither operation is accepted while the block is busy. -/
theorem startWhileBusyChangesNothing : Obligations.StartWhileBusyChangesNothing :=
  fun _ hs => ⟨execDecode_busy hs, execEncode_busy hs⟩

/-- Settles O16: the common frame of the two operations, and the register each leaves to the other. -/
theorem startFrame : Obligations.StartFrame := by
  intro s t h
  have hframe : StartFrame s t := h.elim (fun hd => (execDecode_frame hd).1) (fun he => (execEncode_frame he).1)
  obtain ⟨hhost, hpix, hpos, hsnk, hb, hn, hv, hrv, hrl, hp⟩ := hframe
  exact ⟨hhost, hpix, hpos, hsnk, hb, hn, hv, hrv, hrl, hp,
    fun hd => (execDecode_frame hd).2, fun he => (execEncode_frame he).2⟩

/-- Settles O27: a setup move in `IDLE` writes its field, which a read gives back. -/
theorem hostConfiguresInIdle : Obligations.HostConfiguresInIdle := by
  intro s m x hs
  refine ⟨fun hi => ⟨_, ?_, rfl, rfl⟩, fun hi => ⟨_, ?_, rfl, rfl⟩, fun hi => ⟨_, ?_, rfl, rfl⟩⟩ <;>
    (rw [step_of_move hi]; exact whenIdle_of_idle hs _)

/-- Settles O31: no move is due at reset, and in `IDLE` the block waits. -/
theorem resetStateIsIdleAndWaits : Obligations.ResetStateIsIdleAndWaits :=
  ⟨rfl, rfl, (step_of_blockMoves (.inl rfl)).trans (blockStep_idle rfl)⟩

/-- Settles O32: one code for each value of `STATE`, `CAUSE` and `OK`; the other fields read as they are. -/
theorem fieldsReadAsTheirCodes : Obligations.FieldsReadAsTheirCodes := by
  intro s
  refine ⟨?stat0, ?stat1, ?stat2, ?cause0, ?cause1, ?cause2, ?ok1, ?ok0, rfl, rfl, rfl, rfl⟩
  all_goals
    intro h
    simp [hostRead, h, Phase.code, causeCode]

/-- Settles O39: reset memory is canonical, and neither unit runs. -/
theorem invariantHoldsAtReset : Obligations.InvariantHoldsAtReset := ⟨reset_pixInv, nofun, nofun⟩

end Sys2Proof.Machine
end

section
/-! PROOFS. The statements on the ports (20_memory.md): what each unit leaves alone, where DECODE writes, and how a port that does
not answer holds the block. -/

namespace Sys2Proof.Machine

/-! ## What DECODE writes -/

/-- The bytes of `PIX` that changed lie from the old cursor to the new one, and hold the token's value (20_memory.md R51). -/
def WritesAtCursor (s t : State) : Prop :=
  s.wp ≤ t.wp ∧
  (∀ a, a < s.wp ∨ t.wp ≤ a → Memory.read t.pix a = Memory.read s.pix a) ∧
  (∀ a, s.wp ≤ a → a < t.wp → Memory.read t.pix a = some t.v)

theorem writesAtCursor_of_same {s t : State} (hwp : t.wp = s.wp) (hpix : t.pix = s.pix) : WritesAtCursor s t :=
  ⟨by omega, fun _ _ => by rw [hpix], fun _ _ _ => by omega⟩

/-- The repetitions of a token whose value stands in `v` write at the cursor. -/
theorem Written.writesAtCursor {v : Byte} {k : Nat} {s t : State} (w : Written v k s t) (hv : s.v = v) :
    WritesAtCursor s t := by
  have hwp := w.wp
  have htv : t.v = v := by rw [w.frame]; exact hv
  refine ⟨by omega, fun a ha => ?_, fun a hlo hhi => ?_⟩
  · rw [w.read, if_neg (by omega)]
  · rw [w.read, if_pos (by omega), htv]

theorem decodeStep_writesAtCursor {s t : State} (h : decodeStep s = .next t) : WritesAtCursor s t := by
  rcases decodeStep_next h with ⟨i, rest, x, u, -, -, -, -, rfl, w⟩ | ⟨-, -, -, rfl⟩ | ⟨x, -, -, -, -, rfl⟩ |
    ⟨-, -, rfl⟩ | ⟨-, rfl⟩
  · exact w.writesAtCursor rfl
  all_goals exact writesAtCursor_of_same rfl rfl

/-! ## Holding on a port -/

/-- The moves that are due have no part in what DEC holds on. -/
theorem decodeWaits_inbox (s : State) (m : List HostMove) : decodeWaits { s with inbox := m } = decodeWaits s := by
  rw [Bool.eq_iff_iff, decodeWaits_iff, decodeWaits_iff]
  rfl

/-- The moves that are due have no part in what ENC holds on. -/
theorem encodeWaits_inbox (s : State) (m : List HostMove) : encodeWaits { s with inbox := m } = encodeWaits s := by
  rw [Bool.eq_iff_iff, encodeWaits_iff, encodeWaits_iff]
  rfl

/-- The moves that are due have no part in what the block holds on. -/
theorem waiting_inbox (s : State) (m : List HostMove) : waiting { s with inbox := m } = waiting s := by
  simp only [waiting, decodeWaits_inbox, encodeWaits_inbox]

/-- A block that is due to advance and holds on a port stays as it is; only a move is used up. -/
theorem step_of_waiting {s : State} (hb : BlockMoves s) (hw : waiting s = true) :
    step s = .next { s with inbox := s.inbox.tail } := by
  rw [step_of_blockMoves hb]
  exact blockStep_waiting ((waiting_inbox s s.inbox.tail).trans hw)

theorem step_of_decodeWaits {s : State} (hb : BlockMoves s) (hs : s.stat = .busyDec) (hw : decodeWaits s = true) :
    step s = .next { s with inbox := s.inbox.tail } :=
  step_of_waiting hb ((waiting_busyDec hs).trans hw)

theorem waiting_busyEnc {s : State} (h : s.stat = .busyEnc) : waiting s = encodeWaits s := by simp [waiting, h]

theorem step_of_encodeWaits {s : State} (hb : BlockMoves s) (hs : s.stat = .busyEnc) (hw : encodeWaits s = true) :
    step s = .next { s with inbox := s.inbox.tail } :=
  step_of_waiting hb ((waiting_busyEnc hs).trans hw)

/-- The byte due, by the pixel or the pad byte, is the byte the machine takes (41_encoder.md R143). -/
theorem inByte_of_inByteIs {s : State} {x : Byte} (h : InByteIs s x) : inByte s = .byte x := by
  rcases h with ⟨hcol, hin, hread⟩ | ⟨hcol, rfl⟩
  · rw [inByte, if_pos hcol]
    exact memRead_of_some hin hread
  · rw [inByte, if_neg (by omega)]

/-- A state that steps to itself is never left. -/
theorem runSteps_of_step_self {s : State} (h : step s = .next s) (k : Nat) : runSteps k s = .next s := by
  induction k with
  | zero => rfl
  | succ k ih => rw [runSteps, h, andThen_next, ih]

/-- With no move due there is none to use up. -/
theorem inbox_tail_of_nil {s : State} (h : s.inbox = []) : ({ s with inbox := s.inbox.tail } : State) = s := by
  rw [h, List.tail_nil, ← h]

/-! ## The obligations -/

/-- Settles O35: of all a busy block can do, only the advance of the unit that runs reaches a port, and each unit's frame holds the
ports of the other; a reset touches none. -/
theorem unitsKeepToTheirPorts : Obligations.UnitsKeepToTheirPorts := by
  intro s t h
  refine ⟨fun hs => ?dec, fun hs => ?enc⟩
  case dec =>
    cases step_busy (by simp [hs]) h with
    | reset m _ ht => rw [ht]; rfl
    | answers p yes ht => simp [ht]
    | stays ht => rw [ht]
    | dec _ _ _ h => exact (decodeStep_frame h).1.snk
    | enc _ he _ => simp [hs] at he
  case enc =>
    cases step_busy (by simp [hs]) h with
    | reset m _ ht => rw [ht]; exact ⟨rfl, rfl, rfl⟩
    | answers p yes ht => simp [ht]
    | stays ht => rw [ht]; exact ⟨rfl, rfl, rfl⟩
    | dec _ hd _ _ => simp [hs] at hd
    | enc _ _ h =>
      have hframe := (encodeStep_frame h).1
      exact ⟨hframe.pix, hframe.host.src, hframe.srcPos⟩

/-- Settles O38: a step of DEC writes at the cursor by the write rule, and nothing else a busy block does but a reset moves the
cursor or changes `PIX`. -/
theorem decodeWritesAtTheCursor : Obligations.DecodeWritesAtTheCursor := by
  intro s t hs hnr h
  cases step_busy (by simp [hs]) h with
  | reset m hi _ => exact absurd hi (hnr m)
  | answers p yes ht => exact writesAtCursor_of_same (by simp [ht]) (by simp [ht])
  | stays ht => subst ht; exact writesAtCursor_of_same rfl rfl
  | dec _ _ _ h =>
    have hwrites := decodeStep_writesAtCursor h
    exact hwrites
  | enc _ he _ => simp [hs] at he

/-- Settles O60: each unanswered call is one of the cases the unit that runs holds on; and with no move due a held state steps to
itself, so that it is never left. -/
theorem unansweredPortHoldsTheBlock : Obligations.UnansweredPortHoldsTheBlock := by
  intro s
  have source (hb : BlockMoves s) (hs : s.stat = .busyDec) (hrow : s.row < s.H.toNat) (hcol : s.col < s.L.toNat)
      (hsrc : s.srcAnswers = false) : step s = .next { s with inbox := s.inbox.tail } :=
    step_of_decodeWaits hb hs ((decodeWaits_iff s).mpr ⟨⟨hrow, hcol⟩, .inl hsrc⟩)
  refine ⟨source, ?write, ?read, ?emitRun, ?emitRow, ?forever⟩
  case write =>
    intro i rest hb hs hrow hcol hW htok hpix
    exact step_of_decodeWaits hb hs ((decodeWaits_iff s).mpr ⟨⟨hrow, hcol⟩, .inr ⟨hW, hpix, i, rest, htok⟩⟩)
  case read =>
    intro hb hs hrow hcol hW hpix
    exact step_of_encodeWaits hb hs ((encodeWaits_iff s).mpr ⟨hrow, .inl ⟨hcol, .inl ⟨hW, hpix⟩⟩⟩)
  case emitRun =>
    intro x hb hs hrow hcol hx hpos hne hsnk
    have hbreak : ∃ y, inByte s = .byte y ∧ y ≠ s.rv := ⟨x, inByte_of_inByteIs hx, hne⟩
    exact step_of_encodeWaits hb hs ((encodeWaits_iff s).mpr ⟨hrow, .inl ⟨hcol, .inr ⟨hsnk, hpos, hbreak⟩⟩⟩)
  case emitRow =>
    intro hb hs hrow hcol hL hsnk
    exact step_of_encodeWaits hb hs ((encodeWaits_iff s).mpr ⟨hrow, .inr ⟨hcol, hL, hsnk⟩⟩)
  case forever =>
    intro k hi hs hrow hcol hsrc
    refine runSteps_of_step_self ?_ k
    rw [source (.inl hi) hs hrow hcol hsrc, inbox_tail_of_nil hi]

end Sys2Proof.Machine
end

section
/-! PROOFS. The statements on the encodings (30_encoding.md): the decoder case by case on the first byte, its agreement with the
encoder and with the opcode table, and from these the obligations. -/

namespace Sys2Proof

/-! ## The decoder, case by case -/

/-- All the decoder can answer: by the first byte, and after a marker by whether a value byte stands there (30_encoding.md R85,
R87, R94). -/
theorem decodeToken_cases (bytes : List Byte) :
    (bytes = [] ∧ decodeToken bytes = .eofToken) ∨
    (∃ b, bytes = [b] ∧ 192 < b.toNat ∧ decodeToken bytes = .eofValue) ∨
    (∃ b rest, bytes = b :: rest ∧ b.toNat ≤ 192 ∧ decodeToken bytes = .token (literalOf b) rest) ∨
    (∃ b v rest, bytes = b :: v :: rest ∧ 192 < b.toNat ∧ decodeToken bytes = .token (.run (runLength b) v) rest) := by
  rcases bytes with _ | ⟨b, rest⟩
  · exact .inl ⟨rfl, rfl⟩
  · rcases Nat.lt_or_ge 192 b.toNat with hm | hl
    · rcases rest with _ | ⟨v, rest⟩
      · exact .inr (.inl ⟨b, rfl, hm, decodeToken_marker_only hm⟩)
      · exact .inr (.inr (.inr ⟨b, v, rest, rfl, hm, decodeToken_run v rest hm⟩))
    · exact .inr (.inr (.inl ⟨b, rest, rfl, hl, decodeToken_literal rest hl⟩))

/-- A token the decoder finds is the literal of a first byte up to 192, or the run of a marker byte and a value byte. -/
theorem decodeToken_eq_token {bytes rest : List Byte} {i : Instr} (h : decodeToken bytes = .token i rest) :
    (∃ b, bytes = b :: rest ∧ b.toNat ≤ 192 ∧ i = literalOf b) ∨
    (∃ b v, bytes = b :: v :: rest ∧ 192 < b.toNat ∧ i = .run (runLength b) v) := by
  rcases decodeToken_cases bytes with ⟨-, hd⟩ | ⟨b, -, -, hd⟩ | ⟨b, l, rfl, hl, hd⟩ | ⟨b, v, l, rfl, hm, hd⟩ <;>
    rw [hd] at h <;> cases h
  · exact .inl ⟨b, rfl, hl, rfl⟩
  · exact .inr ⟨b, v, rfl, hm, rfl⟩

theorem decodeToken_eq_eofToken_iff (bytes : List Byte) : decodeToken bytes = .eofToken ↔ bytes = [] := by
  rcases decodeToken_cases bytes with ⟨rfl, hd⟩ | ⟨b, rfl, -, hd⟩ | ⟨b, l, rfl, -, hd⟩ | ⟨b, v, l, rfl, -, hd⟩ <;>
    simp [hd]

theorem decodeToken_eq_eofValue_iff (bytes : List Byte) :
    decodeToken bytes = .eofValue ↔ ∃ b, bytes = [b] ∧ 192 < b.toNat := by
  rcases decodeToken_cases bytes with ⟨rfl, hd⟩ | ⟨b, rfl, hm, hd⟩ | ⟨b, l, rfl, hl, hd⟩ | ⟨b, v, l, rfl, -, hd⟩
  · simp [hd]
  · simp [hd, hm]
  · simp only [hd, reduceCtorEq, false_iff]
    rintro ⟨c, hc, hm⟩
    cases hc
    omega
  · simp [hd]

/-! ## The rows of `LIT` by their ranges (30_encoding.md R86) -/

theorem literalOf_low {b : Byte} (h : b.toNat ≤ 0x3F) : literalOf b = .litLow b := if_pos h

theorem literalOf_mid {b : Byte} (hlo : 0x40 ≤ b.toNat) (hhi : b.toNat ≤ 0x7F) : literalOf b = .litMid b := by
  rw [literalOf, if_neg (by omega), if_pos hhi]

theorem literalOf_high {b : Byte} (hlo : 0x80 ≤ b.toNat) (hhi : b.toNat ≤ 0xBF) : literalOf b = .litHigh b := by
  rw [literalOf, if_neg (by omega), if_neg (by omega), if_pos hhi]

theorem literalOf_c0 {b : Byte} (h : 0xC0 ≤ b.toNat) : literalOf b = .litC0 := by
  rw [literalOf, if_neg (by omega), if_neg (by omega), if_neg (by omega)]

/-- The decoder on a first byte up to 192 whose row is known. -/
theorem decodeToken_of_literalOf {b : Byte} {i : Instr} (rest : List Byte) (hb : b.toNat ≤ 192) (hi : literalOf b = i) :
    decodeToken (b :: rest) = .token i rest :=
  hi ▸ decodeToken_literal rest hb

/-! ## Encode, then decode -/

/-- The token's bytes are read as the token, whatever follows them: each row's range puts its first byte in that row. -/
theorem decodeToken_encodeToken {i : Instr} (hwf : WellFormed i) (htok : i.isToken = true) (rest : List Byte) :
    decodeToken (encodeToken i ++ rest) = .token i rest := by
  cases i with
  | litLow v =>
    have hv : v.toNat ≤ 0x3F := of_decide_eq_true hwf
    exact decodeToken_of_literalOf rest (by omega) (literalOf_low hv)
  | litMid v =>
    obtain ⟨hlo, hhi⟩ : 0x40 ≤ v.toNat ∧ v.toNat ≤ 0x7F := of_decide_eq_true hwf
    exact decodeToken_of_literalOf rest (by omega) (literalOf_mid hlo hhi)
  | litHigh v =>
    obtain ⟨hlo, hhi⟩ : 0x80 ≤ v.toNat ∧ v.toNat ≤ 0xBF := of_decide_eq_true hwf
    exact decodeToken_of_literalOf rest (by omega) (literalOf_high hlo hhi)
  | litC0 => exact decodeToken_of_literalOf (b := 0xC0#8) rest (by decide) (literalOf_c0 (by decide))
  | run n v =>
    have hn : n ≠ 0 := of_decide_eq_true hwf
    have hmarker := (isMarker_iff _).mp (isMarker_markerByte hn)
    have hrun := decodeToken_run v rest hmarker
    rwa [runLength_markerByte] at hrun
  | decode => cases htok
  | encode => cases htok

/-- A token's words are its stream bytes (30_encoding.md R81, R82). -/
theorem encode_of_isToken {i : Instr} (h : i.isToken = true) : encode i = .stream (encodeToken i) := by
  cases i with
  | decode => cases h
  | encode => cases h
  | _ => rfl

/-! ## The opcode table, by the top two bits -/

/-- The mask 0xC0 clears the low six bits, which the mask 0x3F keeps. -/
theorem and_0xC0_toNat (b : Byte) : (b &&& 0xC0#8).toNat = b.toNat / 64 * 64 := by
  have hsplit : (b &&& 0xC0#8) + (b &&& 0x3F#8) = b := by
    have hdisj : (b &&& 0xC0#8) &&& (b &&& 0x3F#8) = 0#8 := by
      calc (b &&& 0xC0#8) &&& (b &&& 0x3F#8) = (b &&& b) &&& (0xC0#8 &&& 0x3F#8) := by ac_rfl
        _ = 0#8 := BitVec.and_zero
    rw [BitVec.add_eq_or_of_and_eq_zero _ _ hdisj, ← BitVec.and_or_distrib_left]
    exact BitVec.and_allOnes
  have hle : (b &&& 0xC0#8).toNat ≤ b.toNat := by rw [BitVec.toNat_and]; exact Nat.and_le_left
  have hsum := congrArg BitVec.toNat hsplit
  rw [BitVec.toNat_add, and_0x3F_toNat] at hsum
  omega

/-- A row that fixes the top two bits matches the bytes of one quarter. -/
theorem and_0xC0_eq_iff (b p : Byte) : b &&& 0xC0#8 = p ↔ b.toNat / 64 * 64 = p.toNat := by
  rw [← BitVec.toNat_inj, and_0xC0_toNat]

/-- The first row matched, by the ranges of 30_encoding.md R86: the fourth row takes 0xC0 before the fifth can. -/
theorem firstRow_eq (b : Byte) :
    firstRow b = some
      (if b.toNat ≤ 0x3F then 0 else if b.toNat ≤ 0x7F then 1 else if b.toNat ≤ 0xBF then 2
      else if b.toNat = 0xC0 then 3 else 4) := by
  have hlt := b.isLt
  have hwhole : b &&& 0xFF#8 = 0xC0#8 ↔ b.toNat = 0xC0 := by
    rw [show b &&& 0xFF#8 = b from BitVec.and_allOnes, ← BitVec.toNat_inj]
    rfl
  simp only [firstRow, opcodeRows, List.findIdx?_cons, List.findIdx?_nil, decide_eq_true_eq, and_0xC0_eq_iff, hwhole,
    BitVec.toNat_ofNat]
  grind

/-- A literal's row is the first its byte matches. -/
theorem firstRow_literalOf {b : Byte} (h : b.toNat ≤ 192) : firstRow b = some (rowOf (literalOf b)) := by
  rw [firstRow_eq, literalOf]
  split_ifs
  · rfl
  · rfl
  · rfl
  · rfl
  · omega

theorem firstRow_marker {b : Byte} (h : 192 < b.toNat) : firstRow b = some 4 := by
  rw [firstRow_eq, if_neg (by omega), if_neg (by omega), if_neg (by omega), if_neg (by omega)]

/-! ## The obligations -/

/-- Settles O1: a block operation comes back from its operand, a token from its bytes by `decodeToken_encodeToken`. -/
theorem encodeThenDecodeGivesTheInstructionBack : Obligations.EncodeThenDecodeGivesTheInstructionBack := by
  intro i rest hwf
  by_cases htok : i.isToken = true
  · rw [encode_of_isToken htok, if_pos htok]
    exact decodeToken_encodeToken hwf htok rest
  · rw [if_neg htok]
    cases i with
    | decode => rfl
    | encode => rfl
    | _ => exact absurd rfl htok

/-- Settles O2: a literal row spells its one byte, a run its marker byte and its value byte. -/
theorem decodedTokenSpellsItsBytes : Obligations.DecodedTokenSpellsItsBytes := by
  intro bytes rest i h
  rcases decodeToken_eq_token h with ⟨b, rfl, hl, rfl⟩ | ⟨b, v, rfl, hm, rfl⟩
  · have hbytes := literalOf_bytes hl
    exact ⟨literalOf_wellFormed hl, literalOf_isToken b, by simp [hbytes], by simp [hbytes, literalOf_length]⟩
  · exact ⟨decide_eq_true (runLength_ne_zero hm), rfl, by simp [encodeToken, markerByte_runLength hm], rfl⟩

/-- Settles O3: the two bit fields are the quotient and the remainder of the byte by 64. -/
theorem markerTestIsTheComparisonWith192 : Obligations.MarkerTestIsTheComparisonWith192 := by
  intro b
  have hhigh : b.extractLsb' 6 2 = 3#2 ↔ b.toNat / 64 = 3 := by
    rw [← BitVec.toNat_inj, BitVec.extractLsb'_toNat, Nat.shiftRight_eq_div_pow]
    simp only [BitVec.toNat_ofNat]
    omega
  have hlow : b.extractLsb' 0 6 = 0#6 ↔ b.toNat % 64 = 0 := by
    rw [← BitVec.toNat_inj, BitVec.extractLsb'_toNat]
    simp
  rw [isMarker_iff, ne_eq, hhigh, hlow]
  omega

/-- Settles O4: the laws of `runLength` and `markerByte`, each the other's inverse. -/
theorem markerByteAndRunLengthAgree : Obligations.MarkerByteAndRunLengthAgree := by
  refine ⟨fun b hm => ⟨runLength_toNat b, ?_, markerByte_runLength hm⟩,
    fun n hn => ⟨markerByte_toNat n, (isMarker_iff _).mp (isMarker_markerByte hn), runLength_markerByte n⟩⟩
  rw [runLength_of_marker hm]
  omega

/-- Settles O5: the two failures of `decodeToken_cases`. -/
theorem decoderFailsOnlyOnAnEarlyEnd : Obligations.DecoderFailsOnlyOnAnEarlyEnd :=
  fun bytes => ⟨decodeToken_eq_eofToken_iff bytes, decodeToken_eq_eofValue_iff bytes⟩

/-- Settles O6: each word's first byte lies in the range of its row, 0xC2 above 192. -/
theorem wordsOfTheTableDecode : Obligations.WordsOfTheTableDecode :=
  ⟨decodeToken_of_literalOf (b := 0x3F#8) [] (by decide) (literalOf_low (by decide)),
    decodeToken_of_literalOf (b := 0x40#8) [] (by decide) (literalOf_mid (by decide) (by decide)),
    decodeToken_of_literalOf (b := 0xBF#8) [] (by decide) (literalOf_high (by decide) (by decide)),
    decodeToken_of_literalOf (b := 0xC0#8) [] (by decide) (literalOf_c0 (by decide)),
    decodeToken_run (b := 0xC2#8) 0xC2#8 [] (by decide), rfl, rfl⟩

/-- Settles O7: the token found, a literal or a run, is of the row its first byte matches first. -/
theorem decoderFollowsTheTableInOrder : Obligations.DecoderFollowsTheTableInOrder := by
  intro b bytes rest i h
  rcases decodeToken_eq_token h with ⟨c, hc, hl, rfl⟩ | ⟨c, v, hc, hm, rfl⟩ <;> cases hc
  · exact firstRow_literalOf hl
  · exact firstRow_marker hm

namespace Machine

/-- Settles O18: a `START` that is due is the step, and runs the instruction its operand selects. -/
theorem stepRunsTheStartedOperation : Obligations.StepRunsTheStartedOperation :=
  fun _ _ => ⟨fun hi => step_of_move hi, fun hi => step_of_move hi⟩

end Machine

end Sys2Proof
end

section
/-! PROOFS. The statements on the decoder (40_decoder.md): a token's meaning by the write rule, one step of DEC forward, the list
function of R124 on a zero geometry, and the simulation of DECODE by that function. -/

namespace Sys2Proof.ListModel

/-! ## The list function, case by case -/

/-- A full line takes nothing more. -/
theorem line_full {W L col : Nat} (h : L ≤ col) (s out : List Byte) : line W L s col out = some (s, out) := by
  rw [line_eq, if_pos h]

/-- Inside a line the token in front is taken, and its bytes below `W` are written. -/
theorem line_token {W L col : Nat} {s rest : List Byte} {i : Instr} (h : col < L) (hd : decodeToken s = .token i rest)
    (out : List Byte) :
    line W L s col out =
      line W L rest (col + weight i) (out ++ List.replicate (min (weight i) (W - col)) (tokenValue i)) := by
  rw [line_eq, if_neg (Nat.not_le.mpr h), tok_eq, hd]

/-- Inside a line a source that ends before a whole token leaves no result. -/
theorem line_exhausted {W L col : Nat} {s : List Byte} (h : col < L) (hd : ∀ i rest, decodeToken s ≠ .token i rest)
    (out : List Byte) : line W L s col out = none := by
  rw [line_eq, if_neg (Nat.not_le.mpr h), tok_eq]
  rcases ht : decodeToken s with ⟨i, rest⟩ | _ | _
  · exact absurd ht (hd i rest)
  · rfl
  · rfl

theorem frame_succ (W L h : Nat) (s out : List Byte) :
    frame W L (h + 1) s out = (line W L s 0 out).bind fun x => frame W L h x.1 x.2 := by
  rw [frame]
  rcases line W L s 0 out with _ | ⟨s', out'⟩
  · rfl
  · rfl

/-! ## Zero values of the geometry (40_decoder.md R121, 41_encoder.md R152) -/

theorem frame_of_empty_lines (W h : Nat) (s out : List Byte) : frame W 0 h s out = some (s, out) := by
  induction h with
  | zero => rfl
  | succ h ih => rw [frame_succ, line_full (Nat.zero_le 0)]; exact ih

/-- Below a width of 0 no column is written: a line leaves the output as it is. -/
theorem line_of_zero_width {L col : Nat} {s out rest out' : List Byte} (h : line 0 L s col out = some (rest, out')) :
    out' = out := by
  fun_induction line 0 L s col out with
  | case1 | case3 => cases h; rfl
  | case2 | case5 => cases h
  | case4 b s col out _ _ ih => simpa using ih h
  | case6 b col out _ _ v s ih => simpa using ih h

theorem frame_of_zero_width {L h : Nat} {s out rest out' : List Byte} (hf : frame 0 L h s out = some (rest, out')) :
    out' = out := by
  induction h generalizing s out with
  | zero => cases hf; rfl
  | succ h ih =>
    rw [frame_succ] at hf
    obtain ⟨⟨s₁, out₁⟩, hline, hrest⟩ := Option.bind_eq_some_iff.mp hf
    rw [ih hrest, line_of_zero_width hline]

theorem encRow_of_empty_row (pad : Nat → Nat → Byte) (pic : Nat → Byte) (W r : Nat) : encRow pad pic W 0 r = [] := rfl

end Sys2Proof.ListModel

namespace Sys2Proof.Machine

/-! ## The meaning of a token, by the write rule -/

/-- The four rows of `LIT` have one meaning. -/
theorem exec_of_isLiteral {i : Instr} {v : Byte} (h : IsLiteral i v) (s : State) :
    exec i s = writeOnce v (setToken 1#6 v s) := by
  have hone : execLiteral v s = writeOnce v (setToken 1#6 v s) := by
    rw [execLiteral_eq, writeRule]
    cases writeOnce v (setToken 1#6 v s) <;> rfl
  rw [← hone]
  rcases h with rfl | rfl | rfl | ⟨rfl, rfl⟩ <;> rfl

theorem writeOnce_of_lt (v : Byte) {s : State} (hc : s.col < s.W.toNat) (hl : s.wp < s.pixSize) :
    writeOnce v s = .next { s with pix := Memory.write s.pix s.wp v, wp := s.wp + 1, col := s.col + 1 } := by
  rw [writeOnce, if_pos hc, memWrite_of_lt v hl, andThen_next]

/-- All a token can do when it answers next. -/
theorem exec_token_next {i : Instr} {s t : State} (htok : i.isToken = true) (h : exec i s = .next t) :
    Written (tokenValue i) (weight i) (setToken (lengthField i) (tokenValue i) s) t :=
  writeRule_next (exec_token i htok s ▸ h)

/-- A token answers next when its writes lie inside the buffer. -/
theorem exec_token_completes {i : Instr} {s : State} (htok : i.isToken = true)
    (h : writtenCount (weight i) s.W.toNat s.col = 0 ∨ s.wp + writtenCount (weight i) s.W.toNat s.col ≤ s.pixSize) :
    ∃ t, exec i s = .next t := by
  rw [exec_token i htok]
  exact writeRule_completes _ h

/-! ## One step of DEC, forward -/

/-- When DEC is due to advance and holds on no port, a step is its advance. -/
theorem step_of_busyDec {s : State} (hb : BlockMoves s) (hs : s.stat = .busyDec) (hw : decodeWaits s = false) :
    step s = decodeStep { s with inbox := s.inbox.tail } := by
  have hfree : waiting { s with inbox := s.inbox.tail } = false := by
    rw [waiting_inbox, waiting_busyDec hs, hw]
  rw [step_of_blockMoves hb, blockStep, hfree]
  simp [hs]

/-- A line end and the end of DECODE call no port. -/
theorem decodeWaits_false_of_no_fetch {s : State} (h : s.H.toNat ≤ s.row ∨ s.L.toNat ≤ s.col) :
    decodeWaits s = false := by
  rw [← Bool.not_eq_true, decodeWaits_iff]
  omega

/-- Inside a line the token the decoder finds is executed, its bytes read (40_decoder.md R113). -/
theorem decodeStep_of_token {s : State} {i : Instr} {rest : List Byte} {x : Byte} (hrow : s.row < s.H.toNat)
    (hcol : s.col < s.L.toNat) (hd : decodeToken s.remaining = .token i rest) (hx : srcByte s = some x) :
    decodeStep s = exec i { s with b := x, srcPos := s.srcPos + tokenLength i } := by
  obtain ⟨y, hy, hfetch, -⟩ := fetchToken_token hd
  obtain rfl : x = y := Option.some.inj (hx.symm.trans hy)
  have htok := (decodeToken_token hd).1
  simp only [decodeStep, hrow, hcol, if_true, hfetch]
  rw [exec_token i htok, exec_token i htok, setToken_after_fetch]

theorem decodeStep_of_full_line {s : State} (hrow : s.row < s.H.toNat) (hcol : s.L.toNat ≤ s.col) :
    decodeStep s = .next (endDecodeLine s) := by
  rw [decodeStep, if_pos hrow, if_neg (Nat.not_lt.mpr hcol)]

theorem decodeStep_of_last_line_done {s : State} (hrow : s.H.toNat ≤ s.row) : decodeStep s = .next (finishDecode s) := by
  rw [decodeStep, if_neg (Nat.not_lt.mpr hrow)]

/-! ## The invariant of DEC -/

/-- A token inside a line writes inside the buffer: the cursor is behind by the columns that are still to come. -/
theorem DecInv.write_inside {s : State} (d : DecInv s) (hrow : s.row < s.H.toNat) (k : Nat) :
    s.wp + writtenCount k s.W.toNat s.col ≤ s.pixSize := by
  have hcursor := d.cursor
  have hlines : (s.row + 1) * s.W.toNat ≤ s.H.toNat * s.W.toNat := Nat.mul_le_mul_right _ hrow
  have hbuffer := d.buffer
  rw [Nat.mul_comm s.W.toNat] at hbuffer
  rw [Nat.succ_mul] at hlines
  unfold writtenCount
  omega

/-- DEC goes on from every state of its invariant. -/
theorem DecInv.decodeStep_completes {s : State} (d : DecInv s) : ∃ t, decodeStep s = .next t := by
  rcases Nat.lt_or_ge s.row s.H.toNat with hrow | hrow
  case inr => exact ⟨_, decodeStep_of_last_line_done hrow⟩
  rcases Nat.lt_or_ge s.col s.L.toNat with hcol | hcol
  case inr => exact ⟨_, decodeStep_of_full_line hrow hcol⟩
  rcases fetchToken_cases s with ⟨i, rest, x, hd, hfetch, -⟩ | ⟨-, hfetch⟩ | ⟨x, -, -, hfetch⟩
  · rw [decodeStep, if_pos hrow, if_pos hcol, hfetch]
    exact exec_token_completes (decodeToken_token hd).1 (.inr (d.write_inside hrow _))
  · exact ⟨_, by rw [decodeStep, if_pos hrow, if_pos hcol, hfetch]⟩
  · exact ⟨_, by rw [decodeStep, if_pos hrow, if_pos hcol, hfetch]⟩

/-- Reading a token's bytes and setting its registers touches nothing the invariant speaks of. -/
theorem DecInv.tokenRead {s : State} (d : DecInv s) (n : BitVec 6) (v b : Byte) (pos : Nat) :
    DecInv (setToken n v { s with b := b, srcPos := pos }) :=
  ⟨d.buffer, d.row, d.col, d.last, d.cursor⟩

/-- A token's writes inside a line keep the invariant. -/
theorem DecInv.token {s t : State} {v : Byte} {k : Nat} (d : DecInv s) (hrow : s.row < s.H.toNat)
    (hcol : s.col < s.L.toNat) (hk : k ≤ 63) (w : Written v k s t) : DecInv t := by
  have hW : t.W = s.W := by rw [w.frame]
  have hH : t.H = s.H := by rw [w.frame]
  have hL : t.L = s.L := by rw [w.frame]
  have hrow' : t.row = s.row := by rw [w.frame]
  have hsize : t.pixSize = s.pixSize := by rw [w.frame]
  have hcol' := w.col
  have hwp := w.wp
  have hcursor := d.cursor
  refine ⟨?_, ?_, ?_, ?_, ?_⟩
  · rw [hW, hH, hsize]; exact d.buffer
  · rw [hrow', hH]; exact d.row
  · rw [hL]; omega
  · rw [hrow', hH]; omega
  · rw [hrow', hW, hwp, hcol']; unfold writtenCount; omega

/-- A line end keeps the invariant. -/
theorem DecInv.endDecodeLine {s : State} (d : DecInv s) (hrow : s.row < s.H.toNat) : DecInv (endDecodeLine s) := by
  have hcursor := d.cursor
  refine ⟨d.buffer, hrow, Nat.zero_le _, fun _ => rfl, ?_⟩
  simp only [endDecodeLine_wp, endDecodeLine_row, endDecodeLine_W, Nat.succ_mul]
  omega

/-! ## DECODE and its list function (40_decoder.md R124) -/

theorem reaches_refl (s : State) : Reaches s s := ⟨0, rfl⟩

theorem reaches_of_step {s t u : State} (h : step s = .next t) (hr : Reaches t u) : Reaches s u := by
  obtain ⟨k, hk⟩ := hr
  exact ⟨k + 1, by rw [runSteps, h, andThen_next, hk]⟩

/-- What the list function of R124 makes, from the middle of an operation that has written `out`, of what the source still holds:
the rest of the line in hand, then the lines after it. -/
def toCome (out : List Byte) (s : State) : Option (List Byte × List Byte) :=
  if s.row < s.H.toNat then
    (ListModel.line s.W.toNat s.L.toNat s.remaining s.col out).bind fun x =>
      ListModel.frame s.W.toNat s.L.toNat (s.H.toNat - (s.row + 1)) x.1 x.2
  else some (s.remaining, out)

/-- At the start of a line, or after the last one, whole lines are to come. -/
theorem toCome_of_line_start {s : State} (hcol : s.col = 0) (out : List Byte) :
    toCome out s = ListModel.frame s.W.toNat s.L.toNat (s.H.toNat - s.row) s.remaining out := by
  rcases Nat.lt_or_ge s.row s.H.toNat with hrow | hrow
  · rw [toCome, if_pos hrow, hcol, show s.H.toNat - s.row = s.H.toNat - (s.row + 1) + 1 by omega, ListModel.frame_succ]
  · rw [toCome, if_neg (Nat.not_lt.mpr hrow), Nat.sub_eq_zero_of_le hrow, ListModel.frame]

theorem toCome_after_last_line {s : State} (hrow : s.H.toNat ≤ s.row) (out : List Byte) :
    toCome out s = some (s.remaining, out) := if_neg (Nat.not_lt.mpr hrow)

theorem toCome_of_exhausted {s : State} (hrow : s.row < s.H.toNat) (hcol : s.col < s.L.toNat)
    (hd : ∀ i rest, decodeToken s.remaining ≠ .token i rest) (out : List Byte) : toCome out s = none := by
  rw [toCome, if_pos hrow, ListModel.line_exhausted hcol hd, Option.bind_none]

/-- A line end leaves to come what was to come. -/
theorem toCome_endDecodeLine {s : State} (hrow : s.row < s.H.toNat) (hcol : s.L.toNat ≤ s.col) (out : List Byte) :
    toCome out (endDecodeLine s) = toCome out s := by
  rw [toCome_of_line_start rfl, toCome, if_pos hrow, ListModel.line_full hcol, Option.bind_some]
  rfl

/-- A token leaves to come what was to come, its bytes below `W` now written. -/
theorem toCome_token {s t : State} {i : Instr} {rest : List Byte} (hrow : s.row < s.H.toNat) (hcol : s.col < s.L.toNat)
    (hd : decodeToken s.remaining = .token i rest) (hg : SameGeometry s t) (hr : t.row = s.row)
    (hrest : t.remaining = rest) (hc : t.col = s.col + weight i) (out : List Byte) :
    toCome (out ++ List.replicate (writtenCount (weight i) s.W.toNat s.col) (tokenValue i)) t = toCome out s := by
  rw [toCome, toCome, hg.W, hg.H, hg.L, hr, hrest, hc, if_pos hrow, if_pos hrow, ListModel.line_token hcol hd]
  rfl

/-- A bound on the steps DEC still makes; every token moves the column, and every line end the row. -/
def stepsLeft (s : State) : Nat := (s.H.toNat - s.row) * (s.L.toNat + 63) - s.col

theorem stepsLeft_token {s t : State} {k : Nat} (hrow : s.row < s.H.toNat) (hcol : s.col < s.L.toNat) (hk : 1 ≤ k)
    (hg : SameGeometry s t) (hr : t.row = s.row) (hc : t.col = s.col + k) : stepsLeft t < stepsLeft s := by
  have hline : s.L.toNat + 63 ≤ (s.H.toNat - s.row) * (s.L.toNat + 63) := Nat.le_mul_of_pos_left _ (by omega)
  rw [stepsLeft, stepsLeft, hg.H, hg.L, hr, hc]
  omega

theorem stepsLeft_endDecodeLine {s : State} (d : DecInv s) (hrow : s.row < s.H.toNat) :
    stepsLeft (endDecodeLine s) < stepsLeft s := by
  have hcol := d.col
  have hline : (s.H.toNat - s.row) * (s.L.toNat + 63) =
      (s.H.toNat - (s.row + 1)) * (s.L.toNat + 63) + (s.L.toNat + 63) := by
    rw [← Nat.succ_mul]
    congr 1
    omega
  simp only [stepsLeft, endDecodeLine_H, endDecodeLine_row, endDecodeLine_L, endDecodeLine_col]
  omega

/-- The block runs a DECODE that was launched in `s₀` and has written `out`, and the host keeps its hands off. -/
structure Decoding (s₀ : State) (out : List Byte) (s : State) : Prop where
  /-- The invariant of DEC. -/
  inv : DecInv s
  /-- DEC runs. -/
  stat : s.stat = .busyDec
  /-- No move of the host is due. -/
  inbox : s.inbox = []
  /-- Every port answers. -/
  ports : PortsAnswer s
  /-- The bytes of the source are the launch's. -/
  src : s.src = s₀.src
  /-- The sink is the launch's. -/
  snk : s.snk = s₀.snk
  /-- The cursor stands behind what was written. -/
  wp : s.wp = out.length
  /-- `PIX` holds what was written, and above it what it held at the launch. -/
  read : ∀ a, Memory.read s.pix a = out[a]?.or (Memory.read s₀.pix a)

/-- How DECODE, launched in `s₀`, has to end for what its function gives (40_decoder.md R118, R119, R124). -/
def EndsAs (s₀ t : State) : Option (List Byte × List Byte) → Prop
  | some (rest, out) =>
    t.stat = .idle ∧ t.ok = true ∧ t.cause = .none ∧ t.count = 0 ∧ t.src = s₀.src ∧ t.remaining = rest ∧
      t.snk = s₀.snk ∧ ∀ a, Memory.read t.pix a = out[a]?.or (Memory.read s₀.pix a)
  | none =>
    t.stat = .idle ∧ t.ok = false ∧ t.cause ≠ .none ∧ t.count = 0 ∧ t.src.length ≤ t.srcPos ∧ t.snk = s₀.snk ∧
      ∀ a, t.wp ≤ a → Memory.read t.pix a = Memory.read s₀.pix a

/-- A step of DEC that leaves it running goes on with the same operation, if the cursor and `PIX` follow the output. -/
theorem Decoding.of_frame {s₀ s t : State} {out out' : List Byte} (d : Decoding s₀ out s) (f : DecodeFrame s t)
    (inv : DecInv t) (hs : t.stat = s.stat) (hwp : t.wp = out'.length)
    (hread : ∀ a, Memory.read t.pix a = out'[a]?.or (Memory.read s₀.pix a)) : Decoding s₀ out' t where
  inv := inv
  stat := hs.trans d.stat
  inbox := f.host.inbox.trans d.inbox
  ports := ⟨f.host.srcAnswers.trans d.ports.src, f.host.snkAnswers.trans d.ports.snk,
    f.host.pixAnswers.trans d.ports.pix⟩
  src := f.host.src.trans d.src
  snk := f.snk.trans d.snk
  wp := hwp
  read := hread

/-- Above the cursor `PIX` is as at the launch. -/
theorem Decoding.read_above {s₀ s : State} {out : List Byte} (d : Decoding s₀ out s) {a : Nat} (ha : s.wp ≤ a) :
    Memory.read s.pix a = Memory.read s₀.pix a := by
  rw [d.read, List.getElem?_eq_none (d.wp ▸ ha), Option.none_or]

/-- The bytes a token writes at the cursor are the ones appended to the output. -/
theorem getElem?_append_replicate_or (out : List Byte) (k : Nat) (v : Byte) (a : Nat) (old : Option Byte) :
    (out ++ List.replicate k v)[a]?.or old =
      if out.length ≤ a ∧ a < out.length + k then some v else out[a]?.or old := by
  rw [List.getElem?_append, List.getElem?_replicate]
  by_cases hlow : a < out.length
  · rw [if_pos hlow, if_neg (by omega)]
  · rw [if_neg hlow, List.getElem?_eq_none (Nat.not_lt.mp hlow)]
    by_cases hhigh : a < out.length + k
    · rw [if_pos (by omega), if_pos (by omega), Option.some_or]
    · rw [if_neg (by omega), if_neg (by omega)]

/-- With the ports answering and no move due, a step of the operation is the advance of DEC. -/
theorem Decoding.step_eq {s₀ s : State} {out : List Byte} (d : Decoding s₀ out s) : step s = decodeStep s := by
  rw [step_of_busyDec (.inl d.inbox) d.stat (decodeWaits_false d.ports.src (.inl d.ports.pix)), inbox_tail_of_nil d.inbox]

/-- A token read and written inside a line: the operation goes on, the token's bytes below `W` appended to the output, and what
was to come is to come. -/
theorem Decoding.token {s₀ s t : State} {out rest : List Byte} {i : Instr} {x : Byte} (d : Decoding s₀ out s)
    (hrow : s.row < s.H.toNat) (hcol : s.col < s.L.toNat) (hd : decodeToken s.remaining = .token i rest)
    (hrest : s.src.drop (s.srcPos + tokenLength i) = rest) (hframe : DecodeFrame s t)
    (w : Written (tokenValue i) (weight i)
      (setToken (lengthField i) (tokenValue i) { s with b := x, srcPos := s.srcPos + tokenLength i }) t) :
    ∃ out', Decoding s₀ out' t ∧ toCome out' t = toCome out s ∧ stepsLeft t < stepsLeft s := by
  obtain ⟨-, hpos, hle⟩ := decodeToken_token hd
  have hrow' : t.row = s.row := by rw [w.frame]; rfl
  have hremaining : t.remaining = rest := by rw [← hrest, w.frame]; rfl
  have hinv := d.inv.tokenRead (lengthField i) (tokenValue i) x (s.srcPos + tokenLength i)
  refine ⟨out ++ List.replicate (writtenCount (weight i) s.W.toNat s.col) (tokenValue i), ?_,
    toCome_token hrow hcol hd hframe.geometry hrow' hremaining w.col out,
    stepsLeft_token hrow hcol hpos hframe.geometry hrow' w.col⟩
  refine d.of_frame hframe (hinv.token hrow hcol hle w) (by rw [w.frame]; rfl) ?_ fun a => ?_
  · rw [w.wp, List.length_append, List.length_replicate, ← d.wp]; rfl
  · rw [getElem?_append_replicate_or, ← d.read, ← d.wp]; exact w.read a

/-- One step of the operation commutes with the list function: it leaves to come what was to come, or ends as the function
says. -/
theorem Decoding.step {s₀ s : State} {out : List Byte} (d : Decoding s₀ out s) :
    ∃ t, step s = .next t ∧
      ((∃ out', Decoding s₀ out' t ∧ toCome out' t = toCome out s ∧ stepsLeft t < stepsLeft s) ∨
        EndsAs s₀ t (toCome out s)) := by
  obtain ⟨t, ht⟩ := d.inv.decodeStep_completes
  refine ⟨t, d.step_eq.trans ht, ?_⟩
  have hframe := (decodeStep_frame ht).1
  rcases decodeStep_next ht with ⟨i, rest, x, u, hrow, hcol, hd, hrest, rfl, w⟩ | ⟨hrow, hcol, hr, rfl⟩ |
    ⟨x, hrow, hcol, hr, hx, rfl⟩ | ⟨hrow, hcol, rfl⟩ | ⟨hrow, rfl⟩
  · exact .inl (d.token hrow hcol hd hrest hframe w)
  · rw [toCome_of_exhausted hrow hcol (by simp [hr, decodeToken])]
    exact .inr ⟨rfl, rfl, nofun, rfl, List.drop_eq_nil_iff.mp hr, d.snk, fun a ha => d.read_above ha⟩
  · rw [toCome_of_exhausted hrow hcol (by simp [hr, decodeToken_marker_only hx])]
    exact .inr ⟨rfl, rfl, nofun, rfl, (srcByte_of_remaining_singleton hr).2.le, d.snk, fun a ha => d.read_above ha⟩
  · exact .inl ⟨out, d.of_frame hframe (d.inv.endDecodeLine hrow) rfl d.wp d.read, toCome_endDecodeLine hrow hcol out,
      stepsLeft_endDecodeLine d.inv hrow⟩
  · rw [toCome_after_last_line hrow]
    exact .inr ⟨rfl, rfl, rfl, rfl, d.src, rfl, d.snk, d.read⟩

/-- The operation comes to the end that the list function gives for what is to come. -/
theorem Decoding.ends {s₀ s : State} {out : List Byte} (d : Decoding s₀ out s) :
    ∃ t, Reaches s t ∧ EndsAs s₀ t (toCome out s) := by
  induction hn : stepsLeft s using Nat.strong_induction_on generalizing s out with
  | _ n ih =>
    obtain ⟨t, ht, ⟨out', d', hcome, hless⟩ | hend⟩ := d.step
    · obtain ⟨u, hreach, hu⟩ := ih (stepsLeft t) (hn ▸ hless) d' rfl
      exact ⟨u, reaches_of_step ht hreach, hcome ▸ hu⟩
    · exact ⟨t, reaches_of_step ht (reaches_refl t), hend⟩

/-- A `DECODE` with its premises is accepted. -/
theorem execDecode_ready {s : State} (h : LaunchReady s) : execDecode s = .next (startDecode s) := by
  have hnone : launchProblem s = none :=
    (launchProblem_none_iff s).mpr ⟨by simp [configured, h.width, h.height, h.bpl], h.buffer, h.ports⟩
  rw [execDecode, if_pos h.idle, hnone]

/-- The acceptance of a `START(op=0)` that is the host's only move begins the operation, nothing written yet. -/
theorem decoding_of_start {s : State} (h : LaunchReady s) (hp : PortsAnswer s) :
    Decoding s [] (startDecode { s with inbox := [] }) where
  inv := ⟨h.buffer, Nat.zero_le _, Nat.zero_le _, fun _ => rfl, Nat.zero_le _⟩
  stat := rfl
  inbox := rfl
  ports := ⟨hp.src, hp.snk, hp.pix⟩
  src := rfl
  snk := rfl
  wp := rfl
  read := fun _ => rfl

/-- DECODE is its list function, in success and in failure (40_decoder.md R124). -/
theorem decode_endsAs_decodeFrame {s : State} (h : LaunchReady s) (hp : PortsAnswer s) (hi : s.inbox = [.start 0#1]) :
    ∃ t, Reaches s t ∧
      EndsAs s t (ListModel.decodeFrame s.width.toNat s.height.toNat s.bpl.toNat (s.src.drop s.srcPos)) := by
  have hready : LaunchReady { s with inbox := [] } := ⟨h.idle, h.width, h.height, h.bpl, h.buffer, h.ports⟩
  have hstart : step s = .next (startDecode { s with inbox := [] }) := (step_of_move hi).trans (execDecode_ready hready)
  obtain ⟨t, hreach, hend⟩ := (decoding_of_start h hp).ends
  rw [toCome_of_line_start rfl] at hend
  exact ⟨t, reaches_of_step hstart hreach, hend⟩

/-! ## The obligations -/

/-- Settles O45: the simulation `decode_endsAs_decodeFrame`, where the function has a result. -/
theorem decodeComputesItsFunction : Obligations.DecodeComputesItsFunction := by
  intro s rest out h hp hi hf
  obtain ⟨t, hreach, hend⟩ := decode_endsAs_decodeFrame h hp hi
  rw [hf] at hend
  obtain ⟨hstat, hok, hcause, hcount, hsrc, hrest, hsnk, hread⟩ := hend
  refine ⟨t, hreach, hstat, hok, hcause, hcount, hsrc, hrest, hsnk, fun a ha => ?_, fun a ha => ?_⟩
  · rw [hread, List.getElem?_eq_getElem ha, Option.some_or]
  · rw [hread, List.getElem?_eq_none ha, Option.none_or]

/-- Settles O46: the simulation `decode_endsAs_decodeFrame`, where the function has none. -/
theorem decodeFailsWhenItsFunctionHasNoResult : Obligations.DecodeFailsWhenItsFunctionHasNoResult := by
  intro s h hp hi hf
  obtain ⟨t, hreach, hend⟩ := decode_endsAs_decodeFrame h hp hi
  rw [hf] at hend
  exact ⟨t, hreach, hend⟩

/-- Settles O9: the write rule on `n` repetitions completes, and does what `Written` says. -/
theorem runTokenExecutes : Obligations.RunTokenExecutes := by
  intro s n v hroom
  have hinside : writtenCount n.toNat s.W.toNat s.col = 0 ∨
      s.wp + writtenCount n.toNat s.W.toNat s.col ≤ s.pixSize :=
    hroom.imp_left (writtenCount_above n.toNat)
  obtain ⟨t, ht⟩ := exec_token_completes (i := .run n v) rfl hinside
  obtain ⟨hframe, hcol, hwp, hread, -, -⟩ := exec_token_next rfl ht
  refine ⟨t, ht, ?_, hread⟩
  rw [hframe, hcol, hwp]
  rfl

/-- Settles O10: a token is the write rule after `n` and `v` are set, and `Written` names all that it changes. -/
theorem tokenFrame : Obligations.TokenFrame := by
  intro i s t htok h
  obtain ⟨hframe, hcol, hwp, hread, -, -⟩ := exec_token_next htok h
  obtain ⟨hhost, hgeometry, henc, hsnk⟩ : DecodeFrame s t := .of_update (by rw [hframe]; rfl)
  have hresults : SameResults s t := by constructor <;> rw [hframe] <;> rfl
  refine ⟨hhost, hresults, hgeometry, henc, by rw [hframe]; rfl, by rw [hframe]; rfl, by rw [hframe]; rfl, hsnk, hcol, hwp,
    fun a ha => ?_⟩
  exact (hread a).trans (if_neg ha)

/-- Settles O59: no line or empty lines read nothing, and below a width of 0 no column is written. -/
theorem zeroGeometryDoesNothing : Obligations.ZeroGeometryDoesNothing := by
  intro W H L pad pic s
  refine ⟨rfl, ListModel.frame_of_empty_lines W H s [], fun rest out h => ListModel.frame_of_zero_width h, rfl, ?_⟩
  exact List.flatMap_eq_nil_iff.mpr fun r _ => ListModel.encRow_of_empty_row pad pic W r

/-- Settles O8: each row of `LIT` is the write rule once, below `W` and above it. -/
theorem literalTokenExecutes : Obligations.LiteralTokenExecutes := by
  intro s i v hi
  rw [exec_of_isLiteral hi]
  exact ⟨fun hcol hwp => writeOnce_of_lt v hcol hwp, fun hcol => writeOnce_above hcol⟩

/-- Settles O12: no premise is missing, so the launch is accepted. -/
theorem decodeStartIsAccepted : Obligations.DecodeStartIsAccepted :=
  fun _ h => ⟨_, _, _, execDecode_ready h⟩

/-- Settles O17: DEC holds on no port, and its advance executes the token fetched. -/
theorem stepRunsTheDecodedToken : Obligations.StepRunsTheDecodedToken := by
  intro s i rest x hb hs hrow hcol hsrc hbuf hd hx
  obtain ⟨-, -, -, hrest⟩ := fetchToken_token hd
  rw [step_of_busyDec hb hs (decodeWaits_false hsrc hbuf)]
  exact ⟨decodeStep_of_token hrow hcol hd hx, hrest⟩

/-- Settles O21: a line end calls no port. -/
theorem fullLineEnds : Obligations.FullLineEnds := by
  intro s hb hs hrow hcol
  rw [step_of_busyDec hb hs (decodeWaits_false_of_no_fetch (.inr hcol))]
  exact decodeStep_of_full_line hrow hcol

/-- Settles O22: the end of DECODE calls no port. -/
theorem decodeEndsAfterTheLastLine : Obligations.DecodeEndsAfterTheLastLine := by
  intro s hb hs hrow
  rw [step_of_busyDec hb hs (decodeWaits_false_of_no_fetch (.inl hrow))]
  exact decodeStep_of_last_line_done hrow

end Sys2Proof.Machine
end

section
/-! PROOFS. The statements on the encoder (41_encoder.md): the cut of a row into maximal runs, the emission of a run, one step of
ENC forward, and the simulation of ENCODE by the list function of R155. -/

namespace Sys2Proof.ListModel

/-! ## The cut into maximal runs (41_encoder.md R144) -/

theorem neighboursDiffer_cons {α : Type} (x : Byte × α) (rs : List (Byte × α)) :
    neighboursDiffer (x :: rs) ↔ rs.head?.map Prod.fst ≠ some x.1 ∧ neighboursDiffer rs := by
  cases rs with
  | nil => simp [neighboursDiffer]
  | cons y rs => simp [neighboursDiffer, ne_comm]

/-- A cut begins with the value its list begins with. -/
theorem IsCut.head?_eq {xs : List Byte} {rs : List (Byte × Nat)} (h : IsCut xs rs) :
    xs.head? = rs.head?.map Prod.fst := by
  obtain ⟨rfl, hlen, -⟩ := h
  cases rs with
  | nil => rfl
  | cons r rs =>
    have hr : r.2 ≠ 0 := Nat.one_le_iff_ne_zero.mp (hlen r List.mem_cons_self)
    simp [hr, List.head?_replicate]

/-- A cut is a run, and a cut of what follows it, which begins with another value or is empty. -/
theorem isCut_cons_iff {xs : List Byte} {v : Byte} {k : Nat} {rs : List (Byte × Nat)} :
    IsCut xs ((v, k) :: rs) ↔
      1 ≤ k ∧ ∃ ys, xs = List.replicate k v ++ ys ∧ ys.head? ≠ some v ∧ IsCut ys rs := by
  constructor
  · rintro ⟨hspell, hlen, hdiff⟩
    obtain ⟨hk, hlen⟩ := List.forall_mem_cons.mp hlen
    obtain ⟨hhead, hdiff⟩ := (neighboursDiffer_cons _ _).mp hdiff
    have hcut : IsCut (rs.flatMap fun x => List.replicate x.2 x.1) rs := ⟨rfl, hlen, hdiff⟩
    exact ⟨hk, _, hspell.symm, hcut.head?_eq ▸ hhead, hcut⟩
  · rintro ⟨hk, ys, rfl, hhead, hcut⟩
    rw [hcut.head?_eq] at hhead
    obtain ⟨rfl, hlen, hdiff⟩ := hcut
    exact ⟨rfl, List.forall_mem_cons.mpr ⟨hk, hlen⟩, (neighboursDiffer_cons _ _).mpr ⟨hhead, hdiff⟩⟩

/-- The runs of a list are a cut of it. -/
theorem isCut_runs (xs : List Byte) : IsCut xs (runs xs) := by
  induction xs with
  | nil => exact ⟨rfl, nofun, trivial⟩
  | cons x xs ih =>
    rw [runs]
    rcases hr : runs xs with _ | ⟨⟨v, k⟩, t⟩
    · rw [hr] at ih
      exact isCut_cons_iff.mpr ⟨le_rfl, xs, rfl, by simp [ih.head?_eq], ih⟩
    · rw [hr] at ih
      by_cases hv : v = x
      · subst hv
        obtain ⟨-, ys, rfl, hhead, hcut⟩ := isCut_cons_iff.mp ih
        simp only [if_true]
        exact isCut_cons_iff.mpr ⟨by omega, ys, rfl, hhead, hcut⟩
      · simp only [hv, if_false]
        exact isCut_cons_iff.mpr ⟨le_rfl, xs, rfl, by simpa [ih.head?_eq] using hv, ih⟩

/-- The runs of a list begin with the value the list begins with. -/
theorem head?_runs (xs : List Byte) : (runs xs).head?.map Prod.fst = xs.head? := (isCut_runs xs).head?_eq.symm

theorem runs_cons_of_head?_ne {x : Byte} {xs : List Byte} (h : xs.head? ≠ some x) :
    runs (x :: xs) = (x, 1) :: runs xs := by
  rw [← head?_runs] at h
  rw [runs]
  rcases hr : runs xs with _ | ⟨⟨v, k⟩, t⟩
  · rfl
  · have hv : v ≠ x := by simpa [hr] using h
    simp [hv]

/-- A run that what follows does not lengthen is the first of the runs. -/
theorem runs_replicate_append {v : Byte} {k : Nat} {xs : List Byte} (hk : 1 ≤ k) (h : xs.head? ≠ some v) :
    runs (List.replicate k v ++ xs) = (v, k) :: runs xs := by
  induction k, hk using Nat.le_induction with
  | base => exact runs_cons_of_head?_ne h
  | succ k _ ih => simp [List.replicate_succ, runs, ih]

/-- There is one cut only: the runs. -/
theorem IsCut.eq_runs {xs : List Byte} {rs : List (Byte × Nat)} (h : IsCut xs rs) : rs = runs xs := by
  induction rs generalizing xs with
  | nil => rw [← h.1]; rfl
  | cons r rs ih =>
    obtain ⟨hk, ys, rfl, hhead, hcut⟩ := isCut_cons_iff.mp h
    rw [runs_replicate_append hk hhead, ← ih hcut]

/-! ## The bytes of a row (41_encoder.md R155) -/

/-- The bytes the encoder makes of a list of input bytes. -/
def emitRuns (xs : List Byte) : List Byte := (runs xs).flatMap fun x => emit x.1 x.2

theorem encRow_eq (pad : Nat → Nat → Byte) (pic : Nat → Byte) (W L r : Nat) :
    encRow pad pic W L r = emitRuns (rowBytes pad pic W L r) := rfl

theorem emitRuns_replicate_append {v : Byte} {k : Nat} {xs : List Byte} (hk : 1 ≤ k) (h : xs.head? ≠ some v) :
    emitRuns (List.replicate k v ++ xs) = emit v k ++ emitRuns xs := by
  rw [emitRuns, runs_replicate_append hk h, List.flatMap_cons, emitRuns]

theorem emitRuns_replicate (v : Byte) {k : Nat} (hk : 1 ≤ k) : emitRuns (List.replicate k v) = emit v k := by
  have h := emitRuns_replicate_append (xs := []) (v := v) hk (by simp)
  simpa [emitRuns, runs] using h

theorem length_rowBytes (pad : Nat → Nat → Byte) (pic : Nat → Byte) (W L r : Nat) :
    (rowBytes pad pic W L r).length = L := by simp [rowBytes]

/-- From a column of the row on, `InByte` of that column comes first. -/
theorem drop_rowBytes {W L c : Nat} (pad : Nat → Nat → Byte) (pic : Nat → Byte) (r : Nat) (h : c < L) :
    (rowBytes pad pic W L r).drop c =
      (if c < W then pic (r * W + c) else pad r c) :: (rowBytes pad pic W L r).drop (c + 1) := by
  rw [List.drop_eq_getElem_cons (by rwa [length_rowBytes])]
  simp [rowBytes]

end Sys2Proof.ListModel

namespace Sys2Proof.Machine

/-! ## The emission of a run (41_encoder.md R140, R145 to R148) -/

theorem emitTokens_lone {v : Byte} (h : v.toNat ≤ 192) : emitTokens v 1 = [literalOf v] := if_pos ⟨rfl, h⟩

theorem emitTokens_run {v : Byte} {len : Nat} (h : ¬ (len = 1 ∧ v.toNat ≤ 192)) : emitTokens v len = chunkTokens v len :=
  if_neg h

theorem markerByte_ofNat {len : Nat} (h : len ≤ 63) : markerByte (BitVec.ofNat 6 len) = 0xC0#8 ||| BitVec.ofNat 8 len := by
  rw [markerByte, BitVec.setWidth_ofNat_of_le_of_lt (by omega) (by omega)]

/-- The chunks of a run are the turns of the loop of R140, if it has turns enough. -/
theorem chunkTokens_bytes (v : Byte) {turns len : Nat} (h : len ≤ turns + 63) :
    (chunkTokens v len).flatMap encodeToken = ListModel.emitLoop v turns len := by
  have last {len : Nat} (h : len ≤ 63) :
      (chunkTokens v len).flatMap encodeToken = [0xC0#8 ||| BitVec.ofNat 8 len, v] := by
    simp [chunkTokens_short v h, encodeToken, markerByte_ofNat h]
  induction turns generalizing len with
  | zero => exact last (by omega)
  | succ turns ih =>
    rw [ListModel.emitLoop]
    split
    · rename_i hlong
      rw [chunkTokens_long v hlong, List.flatMap_cons, ih (by omega)]
      rfl
    · exact last (by omega)

/-- The machine's emission is the list function's, of a run of length 0 too. -/
theorem emitBytes_eq_emit (v : Byte) (len : Nat) : emitBytes v len = ListModel.emit v len := by
  rw [emitBytes, ListModel.emit]
  by_cases hlone : len = 1 ∧ v.toNat ≤ 192
  · obtain ⟨rfl, hv⟩ := hlone
    simp [emitTokens_lone hv, literalOf_bytes hv, hv]
  · rw [emitTokens_run hlone, if_neg hlone, chunkTokens_bytes v (Nat.le_add_right len 63)]

/-- Every chunk is a `RUN` of the run's value, and none has length 0. -/
theorem mem_chunkTokens {v : Byte} {len : Nat} (h : 1 ≤ len) {t : Instr} (ht : t ∈ chunkTokens v len) :
    ∃ n : BitVec 6, n ≠ 0 ∧ t = .run n v := by
  rcases List.mem_append.mp ht with hfull | hlast
  · exact ⟨_, by decide, (List.mem_replicate.mp hfull).2⟩
  · refine ⟨_, fun hzero => ?_, List.mem_singleton.mp hlast⟩
    have hfield := lastChunk_field h
    have hpos := lastChunk_pos h
    have hzero' : lastChunk len = 0 := by rw [← hfield, hzero]; rfl
    omega

/-- The chunks stand for the whole run. -/
theorem expand_chunkTokens (v : Byte) {len : Nat} (h : 1 ≤ len) :
    ListModel.expand (chunkTokens v len) = List.replicate len v := by
  have hfull : weight (.run (BitVec.ofNat 6 Config.maxChunk) v) = 63 := rfl
  have hlast : weight (.run (BitVec.ofNat 6 (lastChunk len)) v) = lastChunk len := lastChunk_field h
  simp only [ListModel.expand, chunkTokens, List.flatMap_append, List.flatMap_replicate, List.flatMap_cons, List.flatMap_nil,
    hfull, hlast, tokenValue, List.flatten_replicate_replicate, List.append_nil, List.replicate_append_replicate]
  rw [Nat.mul_comm, chunks_add_up h]

theorem expand_emitTokens (v : Byte) {len : Nat} (h : 1 ≤ len) :
    ListModel.expand (emitTokens v len) = List.replicate len v := by
  by_cases hlone : len = 1 ∧ v.toNat ≤ 192
  · obtain ⟨rfl, hv⟩ := hlone
    simp [emitTokens_lone hv, ListModel.expand, literalOf_weight, literalOf_value hv]
  · rw [emitTokens_run hlone, expand_chunkTokens v h]

/-! ## One step of ENC, forward -/

theorem flush_eq_emit (v : Byte) (len : Nat) (s : State) :
    flush v len s =
      { s with snk := s.snk ++ ListModel.emit v len, cnt := s.cnt + (ListModel.emit v len).length } := by
  rw [flush_eq, emitBytes_eq_emit]

theorem takeByte_opens (x : Byte) {s : State} (h : s.col = 0) : takeByte x s = openRow x s := if_pos h

theorem takeByte_extends {x : Byte} {s : State} (h : 0 < s.col) (hx : x = s.rv) : takeByte x s = extendRun x s := by
  rw [takeByte, if_neg (by omega), if_pos hx]

theorem breakRun_eq (x : Byte) (s : State) :
    breakRun x s =
      { s with
        p := x, rv := x, rl := 1, col := s.col + 1,
        snk := s.snk ++ ListModel.emit s.rv s.rl, cnt := s.cnt + (ListModel.emit s.rv s.rl).length } := by
  rw [breakRun, flush_eq_emit]

theorem takeByte_breaks {x : Byte} {s : State} (h : 0 < s.col) (hx : x ≠ s.rv) :
    takeByte x s =
      { s with
        p := x, rv := x, rl := 1, col := s.col + 1,
        snk := s.snk ++ ListModel.emit s.rv s.rl, cnt := s.cnt + (ListModel.emit s.rv s.rl).length } := by
  rw [takeByte, if_neg (by omega), if_neg hx, breakRun_eq]

theorem endEncodeRow_of_pos {s : State} (h : 0 < s.L.toNat) :
    endEncodeRow s =
      { s with
        row := s.row + 1, col := 0,
        snk := s.snk ++ ListModel.emit s.rv s.rl, cnt := s.cnt + (ListModel.emit s.rv s.rl).length } := by
  rw [endEncodeRow, if_pos h, flush_eq_emit]

theorem endEncodeRow_of_empty {s : State} (h : s.L.toNat = 0) :
    endEncodeRow s = { s with row := s.row + 1, col := 0 } := by
  rw [endEncodeRow, if_neg (by omega)]

theorem takeByte_col (x : Byte) (s : State) : (takeByte x s).col = s.col + 1 := by
  rcases takeByte_cases x s with ⟨hcol, ht⟩ | ⟨-, -, ht⟩ | ⟨-, -, ht⟩ <;> rw [ht]
  · simp [hcol]
  · rfl
  · rfl

/-- Whatever byte ENC takes, a run is in hand after it. -/
theorem takeByte_rl_pos (x : Byte) (s : State) : 1 ≤ (takeByte x s).rl := by
  rcases takeByte_cases x s with ⟨-, ht⟩ | ⟨-, -, ht⟩ | ⟨-, -, ht⟩ <;> rw [ht]
  · exact le_rfl
  · exact Nat.succ_pos s.rl
  · exact le_rfl

theorem takeByte_row (x : Byte) (s : State) : (takeByte x s).row = s.row := by
  rcases takeByte_cases x s with ⟨-, ht⟩ | ⟨-, -, ht⟩ | ⟨-, -, ht⟩ <;> rw [ht]
  · rfl
  · rfl
  · rw [breakRun_eq]

theorem endEncodeRow_col (s : State) : (endEncodeRow s).col = 0 := by
  unfold endEncodeRow
  split
  · rfl
  · rfl

theorem endEncodeRow_row (s : State) : (endEncodeRow s).row = s.row + 1 := by
  unfold endEncodeRow
  split
  · rfl
  · rfl

theorem encodeStep_of_byte {s : State} {x : Byte} (hrow : s.row < s.H.toNat) (hcol : s.col < s.L.toNat)
    (hx : inByte s = .byte x) : encodeStep s = .next (takeByte x s) := by
  rw [encodeStep, if_pos hrow, if_pos hcol, hx]

theorem encodeStep_of_row_end {s : State} (hrow : s.row < s.H.toNat) (hcol : s.L.toNat ≤ s.col) :
    encodeStep s = .next (endEncodeRow s) := by
  rw [encodeStep, if_pos hrow, if_neg (Nat.not_lt.mpr hcol)]

theorem encodeStep_of_last_row_done {s : State} (hrow : s.H.toNat ≤ s.row) : encodeStep s = .next (finishEncode s) := by
  rw [encodeStep, if_neg (Nat.not_lt.mpr hrow)]

/-- When ENC is due to advance and holds on no port, a step is its advance. -/
theorem step_of_busyEnc {s : State} (hb : BlockMoves s) (hs : s.stat = .busyEnc) (hw : encodeWaits s = false) :
    step s = encodeStep { s with inbox := s.inbox.tail } := by
  have hfree : waiting { s with inbox := s.inbox.tail } = false := by
    rw [waiting_inbox, waiting_busyEnc hs, hw]
  rw [step_of_blockMoves hb, blockStep, hfree]
  simp [hs]

/-- The byte due holds ENC on no port if the buffer answers for it, and the sink does where the byte ends a run. -/
theorem encodeWaits_false_of_byte {s : State} {x : Byte} (hcol : s.col < s.L.toNat) (hbuf : BufferAnswers s)
    (hx : InByteIs s x) (hsnk : 0 < s.col → x ≠ s.rv → s.snkAnswers = true) : encodeWaits s = false := by
  rw [← Bool.not_eq_true, encodeWaits_iff]
  rintro ⟨-, ⟨-, ⟨hbelow, hpix⟩ | ⟨hno, hpos, y, hy, hne⟩⟩ | ⟨hend, -⟩⟩
  · rcases hbuf with hbuf | hbuf
    · simp [hpix] at hbuf
    · omega
  · obtain rfl : x = y := ReadByte.byte.inj ((inByte_of_inByteIs hx).symm.trans hy)
    simp [hsnk hpos hne] at hno
  · omega

/-- A row's end holds ENC on no port if the sink answers or the row is empty. -/
theorem encodeWaits_false_of_row_end {s : State} (hcol : s.L.toNat ≤ s.col)
    (hsnk : 0 < s.L.toNat → s.snkAnswers = true) : encodeWaits s = false := by
  rw [← Bool.not_eq_true, encodeWaits_iff]
  rintro ⟨-, ⟨hin, -⟩ | ⟨-, hpos, hno⟩⟩
  · omega
  · simp [hsnk hpos] at hno

/-- The end of ENCODE calls no port. -/
theorem encodeWaits_false_of_last_row_done {s : State} (hrow : s.H.toNat ≤ s.row) : encodeWaits s = false := by
  rw [← Bool.not_eq_true, encodeWaits_iff]
  omega

/-- An `ENCODE` with its premises is accepted. -/
theorem execEncode_ready {s : State} {pic : Nat → Byte} (h : LaunchReady s) (hin : InputIs s pic) :
    execEncode s = .next (startEncode s) := by
  have hnone : launchProblem s = none :=
    (launchProblem_none_iff s).mpr ⟨by simp [configured, h.width, h.height, h.bpl], h.buffer, h.ports⟩
  have hwritten : inputWritten s = true :=
    (writtenBelow_iff _ _).mpr fun a ha => by rw [hin a ha, Option.isSome_some]
  simp [execEncode, encodeLaunchProblem, h.idle, hnone, hwritten]

/-! ## ENCODE and its list function (41_encoder.md R155) -/

/-- The bytes of the row in hand that stand in the run ENC collects; at column 0 there is none yet. -/
def inHand (s : State) : List Byte := if s.col = 0 then [] else List.replicate s.rl s.rv

/-- The bytes the list function of R155 makes of the rows from one on. -/
def rowsFrom (pic : Nat → Byte) (s : State) (r : Nat) : List Byte :=
  ((List.range s.H.toNat).drop r).flatMap (ListModel.encRow Config.padByte pic s.W.toNat s.L.toNat)

/-- The bytes of the row in hand that ENC has still to emit or to read: the run it collects, then the columns to come. -/
def rowLeft (pic : Nat → Byte) (s : State) : List Byte :=
  inHand s ++ (ListModel.rowBytes Config.padByte pic s.W.toNat s.L.toNat s.row).drop s.col

/-- The sink as the list function of R155 says it will be, from the middle of an operation on. -/
def sinkToBe (pic : Nat → Byte) (s : State) : List Byte :=
  s.snk ++ if s.row < s.H.toNat then ListModel.emitRuns (rowLeft pic s) ++ rowsFrom pic s (s.row + 1) else []

/-- In a row the run in hand and the columns to come are emitted, then the rows after it. -/
theorem sinkToBe_in_row {s : State} (pic : Nat → Byte) (hrow : s.row < s.H.toNat) :
    sinkToBe pic s = s.snk ++ (ListModel.emitRuns (rowLeft pic s) ++ rowsFrom pic s (s.row + 1)) := by
  rw [sinkToBe, if_pos hrow]

theorem sinkToBe_after_last_row {s : State} (pic : Nat → Byte) (hrow : s.H.toNat ≤ s.row) : sinkToBe pic s = s.snk := by
  rw [sinkToBe, if_neg (Nat.not_lt.mpr hrow), List.append_nil]

/-- At the start of a row, or after the last one, whole rows are to come. -/
theorem sinkToBe_of_row_start {s : State} (pic : Nat → Byte) (hcol : s.col = 0) :
    sinkToBe pic s = s.snk ++ rowsFrom pic s s.row := by
  rcases Nat.lt_or_ge s.row s.H.toNat with hrow | hrow
  · have hdrop : (List.range s.H.toNat).drop s.row = s.row :: (List.range s.H.toNat).drop (s.row + 1) := by
      rw [List.drop_eq_getElem_cons (by simpa using hrow), List.getElem_range]
    rw [sinkToBe_in_row pic hrow, rowLeft, inHand, if_pos hcol, hcol, List.nil_append, List.drop_zero, rowsFrom, rowsFrom,
      hdrop, List.flatMap_cons, ListModel.encRow_eq]
  · rw [sinkToBe_after_last_row pic hrow, rowsFrom, List.drop_eq_nil_of_le (by simpa using hrow), List.flatMap_nil,
      List.append_nil]

/-- A bound on the steps ENC still makes: every byte moves the column, and every row end the row. -/
def encodeStepsLeft (s : State) : Nat := (s.H.toNat - s.row) * (s.L.toNat + 1) - s.col

/-- The block runs an ENCODE of the picture `pic` that was accepted as `s₀`, and the host keeps its hands off. -/
structure Encoding (s₀ : State) (pic : Nat → Byte) (s : State) : Prop where
  /-- ENC runs. -/
  stat : s.stat = .busyEnc
  /-- No move of the host is due. -/
  inbox : s.inbox = []
  /-- Every port answers. -/
  ports : PortsAnswer s
  /-- The bytes of `PIX` are the launch's. -/
  pix : s.pix = s₀.pix
  /-- The bytes of the source are the launch's. -/
  src : s.src = s₀.src
  /-- The source position is the launch's. -/
  srcPos : s.srcPos = s₀.srcPos
  /-- The sink is the launch's with the bytes appended that `cnt` counts. -/
  counted : AppendsCounted s₀ s
  /-- The buffer holds the picture. -/
  input : ∀ a, a < s.W.toNat * s.H.toNat → a < s.pixSize ∧ Memory.read s.pix a = some (pic a)
  /-- Range of `col`. -/
  col : s.col ≤ s.L.toNat
  /-- Inside a row a run is in hand. -/
  run : 0 < s.col → 1 ≤ s.rl

theorem AppendsCounted.trans {s t u : State} (hst : AppendsCounted s t) (htu : AppendsCounted t u) : AppendsCounted s u := by
  obtain ⟨xs, hsnk, hcnt⟩ := hst
  obtain ⟨ys, hsnk', hcnt'⟩ := htu
  exact ⟨xs ++ ys, by rw [hsnk', hsnk, List.append_assoc], by rw [hcnt', hcnt, List.length_append, Nat.add_assoc]⟩

/-- A step of ENC that leaves it running goes on with the same operation. -/
theorem Encoding.of_frame {s₀ s t : State} {pic : Nat → Byte} (e : Encoding s₀ pic s) (f : EncodeFrame s t)
    (hs : t.stat = s.stat) (hcol : t.col ≤ s.L.toNat) (hrun : 0 < t.col → 1 ≤ t.rl) : Encoding s₀ pic t where
  stat := hs.trans e.stat
  inbox := f.host.inbox.trans e.inbox
  ports := ⟨f.host.srcAnswers.trans e.ports.src, f.host.snkAnswers.trans e.ports.snk,
    f.host.pixAnswers.trans e.ports.pix⟩
  pix := f.pix.trans e.pix
  src := f.host.src.trans e.src
  srcPos := f.srcPos.trans e.srcPos
  counted := e.counted.trans f.snk
  input := by rw [f.geometry.W, f.geometry.H, f.host.pixSize, f.pix]; exact e.input
  col := f.geometry.L ▸ hcol
  run := hrun

/-- With the ports answering and no move due, a step of the operation is the advance of ENC. -/
theorem Encoding.step_eq {s₀ s : State} {pic : Nat → Byte} (e : Encoding s₀ pic s) : step s = encodeStep s := by
  rw [step_of_busyEnc (.inl e.inbox) e.stat (encodeWaits_false e.ports.snk (.inl e.ports.pix)), inbox_tail_of_nil e.inbox]

/-- The byte due is the list function's `InByte` (41_encoder.md R143). -/
theorem Encoding.inByte_eq {s₀ s : State} {pic : Nat → Byte} (e : Encoding s₀ pic s) (hrow : s.row < s.H.toNat) :
    inByte s = .byte (if s.col < s.W.toNat then pic (s.row * s.W.toNat + s.col) else Config.padByte s.row s.col) := by
  apply inByte_of_inByteIs
  split
  · rename_i hbelow
    have hrows : (s.row + 1) * s.W.toNat ≤ s.H.toNat * s.W.toNat := Nat.mul_le_mul_right _ hrow
    rw [Nat.succ_mul, Nat.mul_comm s.H.toNat] at hrows
    exact .inl ⟨hbelow, e.input _ (by omega)⟩
  · exact .inr ⟨by omega, rfl⟩

/-- Inside a row the byte due is the first of the row's bytes to come. -/
theorem Encoding.byteDue {s₀ s : State} {pic : Nat → Byte} (e : Encoding s₀ pic s) (hrow : s.row < s.H.toNat)
    (hcol : s.col < s.L.toNat) :
    ∃ x xs, inByte s = .byte x ∧
      (ListModel.rowBytes Config.padByte pic s.W.toNat s.L.toNat s.row).drop s.col = x :: xs :=
  ⟨_, _, e.inByte_eq hrow, ListModel.drop_rowBytes _ pic s.row hcol⟩

/-- Taking the row's next byte leaves the sink to become what it was to become: the byte joins the run in hand, or the run in
hand, which it does not lengthen, is emitted. -/
theorem Encoding.sinkToBe_takeByte {s₀ s : State} {pic : Nat → Byte} {x : Byte} {xs : List Byte} (e : Encoding s₀ pic s)
    (hrow : s.row < s.H.toNat)
    (hx : (ListModel.rowBytes Config.padByte pic s.W.toNat s.L.toNat s.row).drop s.col = x :: xs) :
    sinkToBe pic (takeByte x s) = sinkToBe pic s := by
  have hxs : (ListModel.rowBytes Config.padByte pic s.W.toNat s.L.toNat s.row).drop (s.col + 1) = xs := by
    rw [← List.tail_drop, hx, List.tail_cons]
  rw [sinkToBe_in_row pic hrow, rowLeft, hx]
  rcases takeByte_cases x s with ⟨hcol, ht⟩ | ⟨hcol, rfl, ht⟩ | ⟨hcol, hne, ht⟩
  · have hleft : rowLeft pic (openRow x s) = inHand s ++ x :: xs := by
      rw [inHand, if_pos hcol, ← hxs, hcol]; rfl
    rw [ht, sinkToBe_in_row (s := openRow x s) pic hrow, hleft]
    rfl
  · have hleft : rowLeft pic (extendRun s.rv s) = inHand s ++ s.rv :: xs := by
      rw [inHand, if_neg (by omega), List.append_cons, ← List.replicate_succ', ← hxs]; rfl
    rw [ht, sinkToBe_in_row (s := extendRun s.rv s) pic hrow, hleft]
    rfl
  · have hleft : rowLeft pic (breakRun x s) = x :: xs := by rw [breakRun_eq, ← hxs]; rfl
    have hemit : ListModel.emitRuns (inHand s ++ x :: xs) =
        ListModel.emit s.rv s.rl ++ ListModel.emitRuns (x :: xs) := by
      rw [inHand, if_neg (by omega), ListModel.emitRuns_replicate_append (e.run hcol) (by simpa using hne)]
    rw [ht, sinkToBe_in_row pic (by rw [breakRun_eq]; exact hrow), hleft, hemit, breakRun_eq]
    simp [rowsFrom]

/-- A row's end leaves the sink to become what it was to become. -/
theorem Encoding.sinkToBe_endEncodeRow {s₀ s : State} {pic : Nat → Byte} (e : Encoding s₀ pic s)
    (hrow : s.row < s.H.toNat) (hcol : s.L.toNat ≤ s.col) : sinkToBe pic (endEncodeRow s) = sinkToBe pic s := by
  have hleft : rowLeft pic s = inHand s := by
    rw [rowLeft, List.drop_eq_nil_of_le (by rwa [ListModel.length_rowBytes]), List.append_nil]
  rw [sinkToBe_in_row pic hrow, hleft]
  rcases Nat.eq_zero_or_pos s.L.toNat with hL | hL
  · have hempty : inHand s = [] := if_pos (by have := e.col; omega)
    rw [endEncodeRow_of_empty hL, sinkToBe_of_row_start pic rfl, hempty]
    rfl
  · have hrun : ListModel.emitRuns (inHand s) = ListModel.emit s.rv s.rl := by
      rw [inHand, if_neg (by omega), ListModel.emitRuns_replicate _ (e.run (by omega))]
    rw [endEncodeRow_of_pos hL, sinkToBe_of_row_start pic rfl, hrun, ← List.append_assoc]
    rfl

theorem encodeStepsLeft_takeByte {s : State} (x : Byte) (hrow : s.row < s.H.toNat) (hcol : s.col < s.L.toNat) :
    encodeStepsLeft (takeByte x s) < encodeStepsLeft s := by
  have hg := (takeByte_frame x s).1.geometry
  have hline : s.L.toNat + 1 ≤ (s.H.toNat - s.row) * (s.L.toNat + 1) := Nat.le_mul_of_pos_left _ (by omega)
  rw [encodeStepsLeft, encodeStepsLeft, hg.H, hg.L, takeByte_row, takeByte_col]
  omega

theorem encodeStepsLeft_endEncodeRow {s : State} (hrow : s.row < s.H.toNat) (hcol : s.col ≤ s.L.toNat) :
    encodeStepsLeft (endEncodeRow s) < encodeStepsLeft s := by
  have hg := (endEncodeRow_frame s).1.geometry
  have hline : (s.H.toNat - s.row) * (s.L.toNat + 1) =
      (s.H.toNat - (s.row + 1)) * (s.L.toNat + 1) + (s.L.toNat + 1) := by
    rw [← Nat.succ_mul]
    congr 1
    omega
  rw [encodeStepsLeft, encodeStepsLeft, hg.H, hg.L, endEncodeRow_row, endEncodeRow_col]
  omega

/-- One step of the operation before its end: it goes on, and leaves the sink to become what it was to become. -/
theorem Encoding.step {s₀ s : State} {pic : Nat → Byte} (e : Encoding s₀ pic s) (hrow : s.row < s.H.toNat) :
    ∃ t, step s = .next t ∧ Encoding s₀ pic t ∧ sinkToBe pic t = sinkToBe pic s ∧
      encodeStepsLeft t < encodeStepsLeft s := by
  rw [e.step_eq]
  rcases Nat.lt_or_ge s.col s.L.toNat with hcol | hcol
  · obtain ⟨x, xs, hx, hdrop⟩ := e.byteDue hrow hcol
    obtain ⟨hframe, hstat⟩ := takeByte_frame x s
    exact ⟨takeByte x s, encodeStep_of_byte hrow hcol hx,
      e.of_frame hframe hstat (by rw [takeByte_col]; exact hcol) fun _ => takeByte_rl_pos x s,
      e.sinkToBe_takeByte hrow hdrop, encodeStepsLeft_takeByte x hrow hcol⟩
  · obtain ⟨hframe, hstat⟩ := endEncodeRow_frame s
    exact ⟨endEncodeRow s, encodeStep_of_row_end hrow hcol,
      e.of_frame hframe hstat (by rw [endEncodeRow_col]; exact Nat.zero_le _) (by rw [endEncodeRow_col]; nofun),
      e.sinkToBe_endEncodeRow hrow hcol, encodeStepsLeft_endEncodeRow hrow e.col⟩

/-- The operation comes to its end, in a state whose sink is what it was to become. -/
theorem Encoding.ends {s₀ s : State} {pic : Nat → Byte} (e : Encoding s₀ pic s) :
    ∃ u, Reaches s (finishEncode u) ∧ Encoding s₀ pic u ∧ u.snk = sinkToBe pic s := by
  induction hn : encodeStepsLeft s using Nat.strong_induction_on generalizing s with
  | _ n ih =>
    rcases Nat.lt_or_ge s.row s.H.toNat with hrow | hrow
    · obtain ⟨t, ht, e', hsink, hless⟩ := e.step hrow
      obtain ⟨u, hreach, hu, hsnk⟩ := ih (encodeStepsLeft t) (hn ▸ hless) e' rfl
      exact ⟨u, reaches_of_step ht hreach, hu, hsnk.trans hsink⟩
    · have hend : Machine.step s = .next (finishEncode s) := e.step_eq.trans (encodeStep_of_last_row_done hrow)
      exact ⟨s, reaches_of_step hend (reaches_refl _), e, (sinkToBe_after_last_row pic hrow).symm⟩

/-- The acceptance of a `START(op=1)` that is the host's only move begins the operation. -/
theorem encoding_of_start {s : State} {pic : Nat → Byte} (h : LaunchReady s) (hin : InputIs s pic) (hp : PortsAnswer s) :
    Encoding (startEncode { s with inbox := [] }) pic (startEncode { s with inbox := [] }) where
  stat := rfl
  inbox := rfl
  ports := ⟨hp.src, hp.snk, hp.pix⟩
  pix := rfl
  src := rfl
  srcPos := rfl
  counted := appendsCounted_of_same rfl rfl
  input := fun a ha => ⟨Nat.lt_of_lt_of_le ha h.buffer, hin a ha⟩
  col := Nat.zero_le _
  run := nofun

/-- At the acceptance the sink is to get the bytes of the list function of R155 appended. -/
theorem sinkToBe_of_start (pic : Nat → Byte) (s : State) :
    sinkToBe pic (startEncode s) =
      s.snk ++ ListModel.encodeFrame Config.padByte pic s.width.toNat s.height.toNat s.bpl.toNat :=
  sinkToBe_of_row_start pic rfl

/-! ## The obligations -/

/-- Settles O47: the operation begun at the acceptance comes to its end with the list function's bytes in the sink, and `cnt` has
counted them. -/
theorem encodeComputesItsFunction : Obligations.EncodeComputesItsFunction := by
  intro s pic h hin hp hi
  have hready : LaunchReady { s with inbox := [] } := ⟨h.idle, h.width, h.height, h.bpl, h.buffer, h.ports⟩
  have hstart : step s = .next (startEncode { s with inbox := [] }) :=
    (step_of_move hi).trans (execEncode_ready hready hin)
  obtain ⟨u, hreach, e, hsnk⟩ := (encoding_of_start h hin hp).ends
  obtain ⟨bytes, hbytes, hcnt⟩ := e.counted
  rw [sinkToBe_of_start] at hsnk
  have hout : bytes = ListModel.encodeFrame Config.padByte pic s.width.toNat s.height.toNat s.bpl.toNat :=
    List.append_cancel_left (hbytes.symm.trans hsnk)
  have hcount : u.cnt = bytes.length := hcnt.trans (Nat.zero_add _)
  exact ⟨finishEncode u, reaches_of_step hstart hreach, rfl, rfl, rfl, hsnk, hcount.trans (congrArg _ hout), e.pix, e.src,
    e.srcPos⟩

/-- Settles O23: the byte due holds ENC on no port, and each of the three cases of taking it is one clause. -/
theorem encoderTakesAByte : Obligations.EncoderTakesAByte := by
  intro s x hb hs hrow hcol hbuf hx
  have hstep (hsnk : 0 < s.col → x ≠ s.rv → s.snkAnswers = true) :
      step s = .next (takeByte x { s with inbox := s.inbox.tail }) := by
    rw [step_of_busyEnc hb hs (encodeWaits_false_of_byte hcol hbuf hx hsnk)]
    exact encodeStep_of_byte hrow hcol (inByte_of_inByteIs hx)
  refine ⟨fun hzero => ?opens, fun hpos heq => ?lengthens, fun hpos hne hsnk => ?breaks⟩
  case opens => exact (hstep (by omega)).trans (congrArg _ (takeByte_opens x hzero))
  case lengthens => exact (hstep fun _ hne => absurd heq hne).trans (congrArg _ (takeByte_extends hpos heq))
  case breaks => exact (hstep fun _ _ => hsnk).trans (congrArg _ (takeByte_breaks hpos hne))

/-- Settles O24: a row's end holds ENC on no port, and emits the run in hand or, in an empty row, nothing. -/
theorem encoderEndsARow : Obligations.EncoderEndsARow := by
  intro s hb hs hrow hcol
  have hstep (hsnk : 0 < s.L.toNat → s.snkAnswers = true) :
      step s = .next (endEncodeRow { s with inbox := s.inbox.tail }) := by
    rw [step_of_busyEnc hb hs (encodeWaits_false_of_row_end hcol hsnk)]
    exact encodeStep_of_row_end hrow hcol
  refine ⟨fun hL hsnk => ?full, fun hL => ?empty⟩
  case full => exact (hstep fun _ => hsnk).trans (congrArg _ (endEncodeRow_of_pos hL))
  case empty => exact (hstep (by omega)).trans (congrArg _ (endEncodeRow_of_empty hL))

/-- Settles O52: lone bytes are raw in both, and the chunks are the turns of the loop. -/
theorem emissionIsTheFlushLoop : Obligations.EmissionIsTheFlushLoop := fun v len _ => emitBytes_eq_emit v len

/-- Settles O53: the last chunk fits the length field of a `RUN`. -/
theorem longRunIsCutGreedily : Obligations.LongRunIsCutGreedily := by
  intro v len hlen
  have hfield := lastChunk_field hlen
  have hrange := lastChunk_pos hlen
  rw [← hfield] at hrange
  exact ⟨BitVec.ofNat 6 (lastChunk len), hfield, hrange.1, hrange.2, rfl⟩

/-- Settles O54: the two sides of the raw-literal rule, and what the tokens of each stand for. -/
theorem loneSmallValueIsRawAndTheRestAreRuns : Obligations.LoneSmallValueIsRawAndTheRestAreRuns := by
  intro v len hlen
  refine ⟨?raw, fun hrun t ht => ?runs, expand_emitTokens v hlen, by decide, fun rest => rfl⟩
  case raw =>
    rintro ⟨rfl, hv⟩
    exact ⟨emitTokens_lone hv, (emitBytes_eq_emit v 1).trans (if_pos ⟨rfl, hv⟩)⟩
  case runs =>
    rw [emitTokens_run hrun] at ht
    exact mem_chunkTokens hlen ht

/-- Settles O55: the runs are a cut, and a cut is the runs. -/
theorem runsAreTheUniqueMaximalCut : Obligations.RunsAreTheUniqueMaximalCut := by
  intro xs rs
  exact ⟨fun h => h.eq_runs, fun h => h ▸ ListModel.isCut_runs xs⟩

/-- Settles O13: no premise is missing, so the launch is accepted. -/
theorem encodeStartIsAccepted : Obligations.EncodeStartIsAccepted :=
  fun _ _ h hin => ⟨_, _, _, execEncode_ready h hin⟩

/-- Settles O25: the end of ENCODE calls no port. -/
theorem encodeEndsAfterTheLastRow : Obligations.EncodeEndsAfterTheLastRow := by
  intro s hb hs hrow
  rw [step_of_busyEnc hb hs (encodeWaits_false_of_last_row_done hrow)]
  exact encodeStep_of_last_row_done hrow

end Sys2Proof.Machine
end

section
/-! PROOFS. The statements on the machine's invariant (44_laws.md R176 to R178, R180): every step keeps it, the counters it bounds
fit their widths, the block goes on from it, and every operation ends. -/

namespace Sys2Proof.Machine

/-! ## The invariant, by `STATE` -/

theorem Inv.of_idle {s : State} (hp : PixInv s) (hs : s.stat = .idle) : Inv s :=
  ⟨hp, fun h => by simp [hs] at h, fun h => by simp [hs] at h⟩

theorem Inv.of_dec {s : State} (hp : PixInv s) (hs : s.stat = .busyDec) (d : DecInv s) : Inv s :=
  ⟨hp, fun _ => d, fun h => by simp [hs] at h⟩

theorem Inv.of_enc {s : State} (hp : PixInv s) (hs : s.stat = .busyEnc) (e : EncInv s) : Inv s :=
  ⟨hp, fun h => by simp [hs] at h, fun _ => e⟩

/-- The moves that are due and the answering of the ports have no part in the invariant. -/
theorem Inv.of_environment {s t : State} (i : Inv s)
    (h : t = { s with
      inbox := t.inbox, srcAnswers := t.srcAnswers, snkAnswers := t.snkAnswers, pixAnswers := t.pixAnswers }) : Inv t := by
  rw [h]
  refine ⟨i.pix, fun hs => ?_, fun hs => ?_⟩
  · obtain ⟨hbuffer, hrow, hcol, hlast, hcursor⟩ := i.dec hs
    exact ⟨hbuffer, hrow, hcol, hlast, hcursor⟩
  · obtain ⟨hbuffer, hwritten, hrow, hcol, hlast, hrun, hsent, hrows⟩ := i.enc hs
    exact ⟨hbuffer, hwritten, hrow, hcol, hlast, hrun, hsent, hrows⟩

theorem Inv.inbox {s : State} (i : Inv s) (m : List HostMove) : Inv { s with inbox := m } := i.of_environment rfl

theorem Inv.setPortAnswers {s : State} (i : Inv s) (p : Port) (yes : Bool) : Inv (setPortAnswers p yes s) :=
  i.of_environment (by cases p <;> rfl)

/-! ## DEC keeps it -/

theorem decInv_startDecode {s : State} (h : launchArea s ≤ s.pixSize) : DecInv (startDecode s) :=
  ⟨h, Nat.zero_le _, Nat.zero_le _, fun _ => rfl, Nat.zero_le _⟩

theorem Inv.decodeStep {s t : State} (i : Inv s) (hs : s.stat = .busyDec) (h : decodeStep s = .next t) : Inv t := by
  have d := i.dec hs
  rcases decodeStep_next h with ⟨k, rest, x, u, hrow, hcol, hd, -, rfl, w⟩ | ⟨-, -, -, rfl⟩ | ⟨x, -, -, -, -, rfl⟩ |
    ⟨hrow, -, rfl⟩ | ⟨-, rfl⟩
  · have hread := d.tokenRead (lengthField k) (tokenValue k) x (s.srcPos + tokenLength k)
    have hle := (decodeToken_token hd).2.2
    exact .of_dec (w.pix i.pix) (by rw [w.frame]; exact hs) (hread.token hrow hcol hle w)
  · exact .of_idle i.pix rfl
  · exact .of_idle i.pix rfl
  · exact .of_dec i.pix hs (d.endDecodeLine hrow)
  · exact .of_idle i.pix rfl

/-! ## ENC keeps it -/

theorem encInv_startEncode {s : State} (h : launchArea s ≤ s.pixSize)
    (hin : ∀ a, a < launchArea s → (Memory.read s.pix a).isSome = true) : EncInv (startEncode s) :=
  ⟨h, hin, Nat.zero_le _, Nat.zero_le _, fun _ => rfl, nofun, nofun, fun _ => Nat.zero_le _⟩

/-- Inside a row the counters of ENC are in range with a run in hand. -/
theorem EncInv.in_row {s t : State} (e : EncInv s) (f : EncodeFrame s t) (hrow : t.row < s.H.toNat)
    (hpos : 0 < t.col) (hcol : t.col ≤ s.L.toNat) (hrun : 1 ≤ t.rl ∧ t.rl ≤ t.col)
    (hsent : t.cnt + 2 * t.rl ≤ 2 * (s.L.toNat * t.row + t.col)) : EncInv t := by
  obtain ⟨hW, hH, hL⟩ := f.geometry
  refine ⟨?_, ?_, ?_, ?_, ?_, fun _ => hrun, fun _ => ?_, fun h => by omega⟩
  · rw [hW, hH, f.host.pixSize]; exact e.buffer
  · rw [hW, hH, f.pix]; exact e.written
  · rw [hH]; omega
  · rw [hL]; exact hcol
  · rw [hH]; omega
  · rw [hL]; exact hsent

/-- Between rows no run is in hand. -/
theorem EncInv.between_rows {s t : State} (e : EncInv s) (f : EncodeFrame s t) (hrow : t.row ≤ s.H.toNat)
    (hcol : t.col = 0) (hsent : t.cnt ≤ 2 * (s.L.toNat * t.row)) : EncInv t := by
  obtain ⟨hW, hH, hL⟩ := f.geometry
  refine ⟨?_, ?_, ?_, ?_, fun _ => hcol, fun h => by omega, fun h => by omega, fun _ => ?_⟩
  · rw [hW, hH, f.host.pixSize]; exact e.buffer
  · rw [hW, hH, f.pix]; exact e.written
  · rw [hH]; exact hrow
  · omega
  · rw [hL]; exact hsent

/-- A run takes at most two sink bytes for each of its bytes. -/
theorem length_emit_le (v : Byte) {len : Nat} (h : 1 ≤ len) : (ListModel.emit v len).length ≤ 2 * len :=
  emitBytes_eq_emit v len ▸ emitBytes_length_le v h

theorem EncInv.takeByte {s : State} (e : EncInv s) (x : Byte) (hrow : s.row < s.H.toNat) (hcol : s.col < s.L.toNat) :
    EncInv (takeByte x s) := by
  have hframe := (takeByte_frame x s).1
  rcases takeByte_cases x s with ⟨hzero, ht⟩ | ⟨hpos, -, ht⟩ | ⟨hpos, -, ht⟩ <;> rw [ht] at hframe ⊢
  · have hsent := e.sentRows hzero
    exact e.in_row hframe hrow Nat.one_pos (Nat.one_le_of_lt hcol) ⟨le_rfl, le_rfl⟩
      (by simp only [openRow_cnt, openRow_rl, openRow_row, openRow_col]; omega)
  · obtain ⟨hrl, hle⟩ := e.run hpos
    have hsent := e.sent hpos
    exact e.in_row hframe hrow (Nat.succ_pos _) hcol ⟨Nat.succ_pos _, Nat.succ_le_succ hle⟩
      (by simp only [extendRun_cnt, extendRun_rl, extendRun_row, extendRun_col]; omega)
  · obtain ⟨hrl, -⟩ := e.run hpos
    have hsent := e.sent hpos
    have hemit := length_emit_le s.rv hrl
    rw [breakRun_eq] at hframe ⊢
    exact e.in_row hframe hrow (Nat.succ_pos _) hcol ⟨le_rfl, Nat.succ_pos _⟩ (by simp only; omega)

theorem EncInv.endEncodeRow {s : State} (e : EncInv s) (hrow : s.row < s.H.toNat) (hcol : s.L.toNat ≤ s.col) :
    EncInv (endEncodeRow s) := by
  have hframe := (endEncodeRow_frame s).1
  rcases Nat.eq_zero_or_pos s.L.toNat with hL | hL
  · have hsent := e.sentRows (by have := e.col; omega)
    rw [endEncodeRow_of_empty hL] at hframe ⊢
    exact e.between_rows hframe hrow rfl (by simpa [hL] using hsent)
  · have hpos : 0 < s.col := by omega
    have hsent := e.sent hpos
    have hemit := length_emit_le s.rv (e.run hpos).1
    have hle := e.col
    rw [endEncodeRow_of_pos hL] at hframe ⊢
    exact e.between_rows hframe hrow rfl (by simp only [Nat.mul_succ]; omega)

theorem Inv.encodeStep {s t : State} (i : Inv s) (hs : s.stat = .busyEnc) (h : encodeStep s = .next t) : Inv t := by
  have hpix : PixInv t := by
    have hframe := (encodeStep_frame h).1
    rw [PixInv, hframe.pix, hframe.host.pixSize]
    exact i.pix
  have e := i.enc hs
  rcases encodeStep_next h with ⟨x, hrow, hcol, -, rfl⟩ | ⟨hrow, hcol, rfl⟩ | ⟨-, rfl⟩
  · exact .of_enc hpix ((takeByte_frame x s).2.trans hs) (e.takeByte x hrow hcol)
  · exact .of_enc hpix ((endEncodeRow_frame s).2.trans hs) (e.endEncodeRow hrow hcol)
  · exact .of_idle hpix rfl

/-! ## Every step keeps it -/

/-- An accepted `START` begins an operation in the invariant of its unit. -/
theorem inv_of_start {op : BitVec 1} {s t : State} (hp : PixInv s) (hs : s.stat = .idle)
    (h : exec (decodeCommand op) s = .next t) : Inv t := by
  rcases exec_start_next h with ⟨-, hd⟩ | ⟨-, he⟩
  · rcases execDecode_next hd with ⟨-, -, hbuffer, -, rfl⟩ | ⟨hbusy, -⟩
    · exact .of_dec hp rfl (decInv_startDecode hbuffer)
    · exact absurd hs hbusy
  · rcases execEncode_next he with ⟨-, -, hbuffer, -, hin, rfl⟩ | ⟨hbusy, -⟩
    · exact .of_enc hp rfl (encInv_startEncode hbuffer hin)
    · exact absurd hs hbusy

theorem eq_of_blockStep_idle {s t : State} (hs : s.stat = .idle) (h : blockStep s = .next t) : t = s := by
  rw [blockStep_idle hs] at h; cases h; rfl

theorem Inv.step_idle {s t : State} (i : Inv s) (hs : s.stat = .idle) (h : step s = .next t) : Inv t := by
  rcases step_next h with ⟨-, hb⟩ | ⟨m, rest, -, hm⟩
  · exact eq_of_blockStep_idle hs hb ▸ i
  · have hpix : PixInv { s with inbox := rest } := i.pix
    rcases hostStep_next hm with hset | ⟨op, -, hx⟩ | ⟨-, rfl⟩ | ⟨-, rfl⟩ | ⟨-, hb⟩ | ⟨p, yes, -, rfl⟩
    · exact .of_idle (hostStep_setup_pixInv hset hm hpix) (hostStep_setup hset hm).2
    · exact inv_of_start hpix hs hx
    · exact .of_idle hpix rfl
    · exact i.inbox rest
    · have ht := eq_of_blockStep_idle (s := { s with inbox := rest }) hs hb
      exact ht ▸ i.inbox rest
    · exact (i.inbox rest).setPortAnswers p yes

theorem Inv.step_busy {s t : State} (i : Inv s) (hs : s.stat ≠ .idle) (h : step s = .next t) : Inv t := by
  cases Machine.step_busy hs h with
  | reset m _ ht => subst ht; exact .of_idle i.pix rfl
  | answers p yes ht => subst ht; exact (i.inbox _).setPortAnswers p yes
  | stays ht => subst ht; exact i.inbox _
  | dec _ hd _ h => exact (i.inbox s.inbox.tail).decodeStep hd h
  | enc _ he h => exact (i.inbox s.inbox.tail).encodeStep he h

/-! ## The block goes on -/

/-- Up to `W` columns of a row lie in the picture. -/
theorem row_mul_add_le {row W H k : Nat} (hrow : row < H) (hk : k ≤ W) : row * W + k ≤ W * H := by
  have hrows : (row + 1) * W ≤ H * W := Nat.mul_le_mul_right _ hrow
  rw [Nat.succ_mul, Nat.mul_comm H] at hrows
  omega

/-- ENC finds every byte it is due to take. -/
theorem EncInv.byteDue {s : State} (e : EncInv s) (hrow : s.row < s.H.toNat) : ∃ x, InByteIs s x := by
  rcases Nat.lt_or_ge s.col s.W.toNat with hcol | hcol
  · have hin : s.row * s.W.toNat + s.col < s.W.toNat * s.H.toNat := row_mul_add_le hrow (k := s.col + 1) hcol
    obtain ⟨x, hx⟩ := Option.isSome_iff_exists.mp (e.written _ hin)
    exact ⟨x, .inl ⟨hcol, Nat.lt_of_lt_of_le hin e.buffer, hx⟩⟩
  · exact ⟨_, .inr ⟨hcol, rfl⟩⟩

/-- ENC goes on from every state of its invariant. -/
theorem EncInv.encodeStep_completes {s : State} (e : EncInv s) : ∃ t, encodeStep s = .next t := by
  rcases Nat.lt_or_ge s.row s.H.toNat with hrow | hrow
  case inr => exact ⟨_, encodeStep_of_last_row_done hrow⟩
  rcases Nat.lt_or_ge s.col s.L.toNat with hcol | hcol
  case inr => exact ⟨_, encodeStep_of_row_end hrow hcol⟩
  obtain ⟨x, hx⟩ := e.byteDue hrow
  exact ⟨_, encodeStep_of_byte hrow hcol (inByte_of_inByteIs hx)⟩

theorem Inv.blockStep_completes {s : State} (i : Inv s) : ∃ t, blockStep s = .next t := by
  rcases hw : waiting s with _ | _
  case true => exact ⟨s, blockStep_waiting hw⟩
  rw [blockStep, if_neg (by simp [hw])]
  rcases hs : s.stat with _ | _ | _
  case idle => exact ⟨s, rfl⟩
  case busyDec => exact (i.dec hs).decodeStep_completes
  case busyEnc => exact (i.enc hs).encodeStep_completes

/-! ## The advances an operation has left -/

/-- A bound on the advances before the last one: a column each or a line's end, in the line in hand and in those after it. -/
def advancesLeft (s : State) : Nat :=
  if s.row < s.H.toNat then (s.H.toNat - (s.row + 1)) * (s.L.toNat + 1) + (s.L.toNat - s.col) + 1 else 0

theorem advancesLeft_le (s : State) : advancesLeft s ≤ s.H.toNat * (s.L.toNat + 1) := by
  rw [advancesLeft]
  split
  · have hline : (s.H.toNat - (s.row + 1) + 1) * (s.L.toNat + 1) ≤ s.H.toNat * (s.L.toNat + 1) :=
      Nat.mul_le_mul_right _ (by omega)
    rw [Nat.succ_mul] at hline
    omega
  · exact Nat.zero_le _

theorem advancesLeft_column {s t : State} (hg : SameGeometry s t) (hrow : s.row < s.H.toNat) (hcol : s.col < s.L.toNat)
    (hr : t.row = s.row) (hc : s.col < t.col) : advancesLeft t < advancesLeft s := by
  rw [advancesLeft, advancesLeft, hg.H, hg.L, hr, if_pos hrow, if_pos hrow]
  omega

theorem advancesLeft_line {s t : State} (hg : SameGeometry s t) (hrow : s.row < s.H.toNat)
    (hr : t.row = s.row + 1) (hc : t.col = 0) : advancesLeft t < advancesLeft s := by
  rw [advancesLeft, advancesLeft, hg.H, hg.L, hr, hc, if_pos hrow]
  split
  · have hline : s.H.toNat - (s.row + 1) = s.H.toNat - (s.row + 1 + 1) + 1 := by omega
    rw [hline, Nat.succ_mul]
    omega
  · exact Nat.succ_pos _

/-- An advance ends the operation, or leaves it fewer advances. -/
def Progress (s t : State) : Prop := t.stat = .idle ∨ advancesLeft t < advancesLeft s

theorem decodeStep_progress {s t : State} (h : decodeStep s = .next t) : Progress s t := by
  have hg := (decodeStep_frame h).1.geometry
  rcases decodeStep_next h with ⟨i, rest, x, u, hrow, hcol, hd, -, rfl, w⟩ | ⟨-, -, -, rfl⟩ | ⟨x, -, -, -, -, rfl⟩ |
    ⟨hrow, -, rfl⟩ | ⟨-, rfl⟩
  · have hweight := (decodeToken_token hd).2.1
    have hcol' : t.col = s.col + weight i := w.col
    exact .inr (advancesLeft_column hg hrow hcol (by rw [w.frame]; rfl) (by omega))
  · exact .inl rfl
  · exact .inl rfl
  · exact .inr (advancesLeft_line hg hrow rfl rfl)
  · exact .inl rfl

theorem encodeStep_progress {s t : State} (h : encodeStep s = .next t) : Progress s t := by
  have hg := (encodeStep_frame h).1.geometry
  rcases encodeStep_next h with ⟨x, hrow, hcol, -, rfl⟩ | ⟨hrow, -, rfl⟩ | ⟨-, rfl⟩
  · exact .inr (advancesLeft_column hg hrow hcol (takeByte_row x s) (by rw [takeByte_col]; omega))
  · exact .inr (advancesLeft_line hg hrow (endEncodeRow_row s) (endEncodeRow_col s))
  · exact .inl rfl

/-- A busy block whose ports answer makes progress. -/
theorem blockStep_progress {s t : State} (hp : PortsAnswer s) (hs : s.stat ≠ .idle) (h : blockStep s = .next t) :
    Progress s t := by
  rcases blockStep_next h with ⟨hw | hidle, -⟩ | ⟨-, -, hd⟩ | ⟨-, -, he⟩
  · simp [waiting_false hp] at hw
  · exact absurd hidle hs
  · exact decodeStep_progress hd
  · exact encodeStep_progress he

theorem Progress.ne {s t : State} (h : Progress s t) (hs : s.stat ≠ .idle) : t ≠ s := by
  rintro rfl
  exact h.elim hs (Nat.lt_irrefl _)

/-- An advance of the block changes nothing on the host's side. -/
theorem blockStep_sameHostSide {s t : State} (h : blockStep s = .next t) : SameHostSide s t := by
  rcases blockStep_next h with ⟨-, rfl⟩ | ⟨-, -, hd⟩ | ⟨-, -, he⟩
  · constructor <;> rfl
  · exact (decodeStep_frame hd).1.host
  · exact (encodeStep_frame he).1.host

theorem PortsAnswer.of_sameHostSide {s t : State} (hp : PortsAnswer s) (h : SameHostSide s t) : PortsAnswer t :=
  ⟨h.srcAnswers.trans hp.src, h.snkAnswers.trans hp.snk, h.pixAnswers.trans hp.pix⟩

/-- With the ports answering and no move due, the block comes to `IDLE` after its advances and one more. -/
theorem Inv.runs_to_idle {s : State} (i : Inv s) (hp : PortsAnswer s) (hi : s.inbox = []) :
    ∃ k t, k ≤ advancesLeft s + 1 ∧ runSteps k s = .next t ∧ t.stat = .idle := by
  induction hn : advancesLeft s using Nat.strong_induction_on generalizing s with
  | _ n ih =>
    by_cases hs : s.stat = .idle
    · exact ⟨0, s, Nat.zero_le _, rfl, hs⟩
    obtain ⟨t, ht⟩ := i.blockStep_completes
    have hstep : step s = .next t := by rw [step_of_blockMoves (.inl hi), inbox_tail_of_nil hi, ht]
    rcases blockStep_progress hp hs ht with hidle | hless
    · exact ⟨1, t, by omega, by rw [runSteps, hstep, andThen_next, runSteps], hidle⟩
    · have hhost := blockStep_sameHostSide ht
      obtain ⟨k, u, hk, hu, hidle⟩ :=
        ih _ (hn ▸ hless) (i.step_busy hs hstep) (hp.of_sameHostSide hhost) (hhost.inbox.trans hi) rfl
      exact ⟨k + 1, u, by omega, by rw [runSteps, hstep, andThen_next, hu], hidle⟩

/-! ## The widths of the counters -/

/-- The cursor lies in the picture, up to its end. -/
theorem DecInv.wp_le {s : State} (d : DecInv s) : s.wp ≤ s.W.toNat * s.H.toNat := by
  have hcursor := d.cursor
  rcases Nat.lt_or_eq_of_le d.row with hrow | hrow
  · exact hcursor.trans (row_mul_add_le hrow (Nat.min_le_right _ _))
  · rw [d.last hrow, hrow, Nat.mul_comm] at hcursor
    omega

/-- The sink bytes are at most two for each byte of the rows (44_laws.md R178). -/
theorem EncInv.cnt_le {s : State} (e : EncInv s) : s.cnt ≤ 2 * (s.L.toNat * s.H.toNat) := by
  rcases Nat.eq_zero_or_pos s.col with hcol | hcol
  · have hrows : s.L.toNat * s.row ≤ s.L.toNat * s.H.toNat := Nat.mul_le_mul_left _ e.row
    have hsent := e.sentRows hcol
    omega
  · have hrow : s.row + 1 ≤ s.H.toNat := Nat.lt_of_le_of_ne e.row fun h => by have := e.last h; omega
    have hrows : s.L.toNat * (s.row + 1) ≤ s.L.toNat * s.H.toNat := Nat.mul_le_mul_left _ hrow
    rw [Nat.mul_succ] at hrows
    have hsent := e.sent hcol
    have hle := e.col
    omega

/-- The product of two geometry values fits 32 bits. -/
theorem toNat_mul_toNat_lt (x y : Half) : x.toNat * y.toNat < 2 ^ 32 :=
  calc x.toNat * y.toNat < 2 ^ 16 * 2 ^ 16 := Nat.mul_lt_mul'' x.isLt y.isLt
    _ = 2 ^ 32 := rfl

/-! ## The obligations -/

/-- Settles O40: `IDLE` and a busy block, each read off its inversion lemma. -/
theorem everyStepKeepsTheInvariant : Obligations.EveryStepKeepsTheInvariant := by
  intro s t i h
  by_cases hs : s.stat = .idle
  · exact i.step_idle hs h
  · exact i.step_busy hs h

/-- Settles O42: both units go on from their invariants, and no advance of a busy block whose ports answer leaves it where it
was. -/
theorem blockAlwaysGoesOn : Obligations.BlockAlwaysGoesOn := by
  intro s i hb
  obtain ⟨t, ht⟩ := (i.inbox s.inbox.tail).blockStep_completes
  refine ⟨t, (step_of_blockMoves hb).trans ht, fun hp hs => ?_⟩
  exact (blockStep_progress (s := { s with inbox := s.inbox.tail }) ⟨hp.src, hp.snk, hp.pix⟩ hs ht).ne hs

/-- Settles O43: `row` and `col` by the geometry, `wp` by the picture, `cnt` by the two bytes for each input byte. -/
theorem countersFitTheirWidths : Obligations.CountersFitTheirWidths := by
  intro s i
  have hL := s.L.isLt
  have hH := s.H.isLt
  refine ⟨fun hs => ?dec, fun hs => ?enc⟩
  case dec =>
    have d := i.dec hs
    have hrow := d.row
    have hcol := d.col
    have hwp := d.wp_le
    have harea := toNat_mul_toNat_lt s.W s.H
    exact ⟨by omega, by omega, hwp, by omega⟩
  case enc =>
    have e := i.enc hs
    have hrow := e.row
    have hcol := e.col
    have hcnt := e.cnt_le
    have harea := toNat_mul_toNat_lt s.L s.H
    refine ⟨by omega, by omega, fun hpos => ?_, by rw [Nat.mul_assoc]; exact hcnt, by omega⟩
    have hrl := (e.run hpos).2
    omega

/-- Settles O44: the advances left are at most a column each and an end for each line. -/
theorem everyOperationEnds : Obligations.EveryOperationEnds := by
  intro s i hp hi
  obtain ⟨k, t, hk, ht, hidle⟩ := i.runs_to_idle hp hi
  exact ⟨k, t, hk.trans (Nat.succ_le_succ (advancesLeft_le s)), ht, hidle⟩

end Sys2Proof.Machine
end

section
/-! PROOFS. The statements of 44_laws.md on the list functions: line-exact streams and their decoding (R170, R171), what ENC emits
as tokens (R172, R173), the round trip (R174, R175), and the sizes (R177 to R179). -/

namespace Sys2Proof.ListModel

/-! ## Tokens and what they stand for -/

theorem tokenBytes_cons (i : Instr) (ts : List Instr) : tokenBytes (i :: ts) = encodeToken i ++ tokenBytes ts :=
  List.flatMap_cons

theorem expand_cons (i : Instr) (ts : List Instr) :
    expand (i :: ts) = List.replicate (weight i) (tokenValue i) ++ expand ts := List.flatMap_cons

/-- The weights count the bytes a token list stands for. -/
theorem length_expand (ts : List Instr) : (expand ts).length = (ts.map weight).sum := by
  simp [expand, List.length_flatMap]

theorem weight_pos {i : Instr} (htok : i.isToken = true) (hwf : WellFormed i) : 1 ≤ weight i :=
  (Machine.decodeToken_token (decodeToken_encodeToken hwf htok [])).2.1

/-- A token takes one or two bytes of the stream (30_encoding.md R85). -/
theorem length_encodeToken {i : Instr} (htok : i.isToken = true) :
    1 ≤ (encodeToken i).length ∧ (encodeToken i).length ≤ 2 := by
  cases i with
  | decode => cases htok
  | encode => cases htok
  | _ => simp [encodeToken]

/-- A line's tokens take at most two bytes for each byte they stand for, and at least one if they stand for any. -/
theorem LineTokens.length_tokenBytes {L : Nat} {ts : List Instr} (h : LineTokens L ts) :
    (tokenBytes ts).length ≤ 2 * L ∧ (1 ≤ L → 1 ≤ (tokenBytes ts).length) := by
  obtain ⟨htokens, rfl⟩ := h
  induction ts with
  | nil => simp [tokenBytes]
  | cons i ts ih =>
    obtain ⟨⟨htok, hwf⟩, htokens⟩ := List.forall_mem_cons.mp htokens
    have hpos := weight_pos htok hwf
    have hlen := length_encodeToken htok
    have hrest := (ih htokens).1
    rw [tokenBytes_cons, List.length_append, List.map_cons, List.sum_cons]
    omega

/-! ## DECODE of a line-exact stream (44_laws.md R170, R171) -/

/-- Tokens that fill the line exactly are read, and of what they stand for the bytes below `W` are written. -/
theorem line_of_tokens (W : Nat) {L : Nat} {ts : List Instr} (rest : List Byte) {col : Nat} (out : List Byte)
    (htokens : ∀ t ∈ ts, t.isToken = true ∧ WellFormed t) (hsum : col + (ts.map weight).sum = L) :
    line W L (tokenBytes ts ++ rest) col out = some (rest, out ++ (expand ts).take (W - col)) := by
  induction ts generalizing col out with
  | nil =>
    have hfull : L ≤ col := by simp at hsum; omega
    simp [line_full hfull, tokenBytes, expand]
  | cons i ts ih =>
    obtain ⟨⟨htok, hwf⟩, htokens⟩ := List.forall_mem_cons.mp htokens
    have hpos := weight_pos htok hwf
    rw [List.map_cons, List.sum_cons] at hsum
    have htake : (expand (i :: ts)).take (W - col) =
        List.replicate (min (weight i) (W - col)) (tokenValue i) ++ (expand ts).take (W - (col + weight i)) := by
      rw [expand_cons, List.take_append, List.take_replicate, List.length_replicate, Nat.min_comm, Nat.sub_sub]
    rw [tokenBytes_cons, List.append_assoc, line_token (by omega) (decodeToken_encodeToken hwf htok _),
      ih _ htokens (by omega), htake, List.append_assoc]

theorem LineTokens.line {L : Nat} {ts : List Instr} (h : LineTokens L ts) (W : Nat) (rest out : List Byte) :
    line W L (tokenBytes ts ++ rest) 0 out = some (rest, out ++ (expand ts).take (min W L)) := by
  have hlen : (expand ts).length = L := (length_expand ts).trans h.2
  have htake : (expand ts).take (W - 0) = (expand ts).take (min W L) := List.take_eq_take_iff.mpr (by omega)
  rw [line_of_tokens W rest out h.1 (by rw [h.2, Nat.zero_add]), htake]

theorem frame_of_groups (W : Nat) {L : Nat} {groups : List (List Instr)} (rest out : List Byte)
    (h : ∀ g ∈ groups, LineTokens L g) :
    frame W L groups.length (groups.flatMap tokenBytes ++ rest) out =
      some (rest, out ++ groups.flatMap fun g => (expand g).take (min W L)) := by
  induction groups generalizing out with
  | nil => simp [frame]
  | cons g groups ih =>
    obtain ⟨hg, h⟩ := List.forall_mem_cons.mp h
    rw [List.flatMap_cons, List.append_assoc, List.length_cons, frame_succ, hg.line, Option.bind_some, ih _ h,
      List.flatMap_cons, List.append_assoc]

theorem LineExactBy.decodeFrame {H L : Nat} {groups : List (List Instr)} {t : List Byte} (h : LineExactBy H L groups t)
    (W : Nat) (rest : List Byte) :
    decodeFrame W H L (t ++ rest) = some (rest, groups.flatMap fun g => (expand g).take (min W L)) := by
  obtain ⟨rfl, hgroups, rfl⟩ := h
  exact frame_of_groups W rest [] hgroups

/-- A line-exact stream takes at most two bytes for each byte of its lines. -/
theorem LineExactBy.length_le {H L : Nat} {groups : List (List Instr)} {t : List Byte} (h : LineExactBy H L groups t) :
    t.length ≤ 2 * L * H := by
  obtain ⟨rfl, hgroups, rfl⟩ := h
  rw [List.length_flatMap, Nat.mul_comm]
  have hsum := List.sum_le_card_nsmul (groups.map fun g => (tokenBytes g).length) (2 * L) fun x hx => by
    obtain ⟨g, hg, rfl⟩ := List.mem_map.mp hx
    exact (hgroups g hg).length_tokenBytes.1
  simpa using hsum

/-! ## What ENC emits, as tokens (44_laws.md R172, R173) -/

/-- The tokens of a list of runs, each emitted by itself. -/
def runTokens (rs : List (Byte × Nat)) : List Instr := rs.flatMap fun x => Machine.emitTokens x.1 x.2

/-- The tokens ENC emits for a row. -/
def rowTokens (xs : List Byte) : List Instr := runTokens (runs xs)

theorem mem_emitTokens {v : Byte} {len : Nat} (h : 1 ≤ len) {t : Instr} (ht : t ∈ Machine.emitTokens v len) :
    t.isToken = true ∧ WellFormed t := by
  by_cases hlone : len = 1 ∧ v.toNat ≤ 192
  · obtain ⟨rfl, hv⟩ := hlone
    rw [Machine.emitTokens_lone hv, List.mem_singleton] at ht
    exact ht ▸ ⟨literalOf_isToken v, literalOf_wellFormed hv⟩
  · rw [Machine.emitTokens_run hlone] at ht
    obtain ⟨n, hn, rfl⟩ := Machine.mem_chunkTokens h ht
    exact ⟨rfl, decide_eq_true hn⟩

/-- The tokens of runs stand for the runs. -/
theorem expand_runTokens {rs : List (Byte × Nat)} (h : ∀ x ∈ rs, 1 ≤ x.2) :
    expand (runTokens rs) = rs.flatMap fun x => List.replicate x.2 x.1 := by
  rw [expand, runTokens, List.flatMap_assoc]
  exact List.flatMap_congr fun x hx => Machine.expand_emitTokens x.1 (h x hx)

theorem expand_rowTokens (xs : List Byte) : expand (rowTokens xs) = xs := by
  obtain ⟨hspell, hlen, -⟩ := isCut_runs xs
  rw [rowTokens, expand_runTokens hlen, hspell]

theorem tokenBytes_rowTokens (xs : List Byte) : tokenBytes (rowTokens xs) = emitRuns xs := by
  rw [tokenBytes, rowTokens, runTokens, List.flatMap_assoc]
  exact List.flatMap_congr fun x _ => Machine.emitBytes_eq_emit x.1 x.2

theorem lineTokens_rowTokens (xs : List Byte) : LineTokens xs.length (rowTokens xs) := by
  refine ⟨fun t ht => ?_, by rw [← length_expand, expand_rowTokens]⟩
  obtain ⟨x, hx, ht⟩ := List.mem_flatMap.mp ht
  exact mem_emitTokens ((isCut_runs xs).2.1 x hx) ht

section Picture

variable (pad : Nat → Nat → Byte) (pic : Nat → Byte) (W H L : Nat)

/-- The groups of the encoded picture, one for each row. -/
def encodedGroups : List (List Instr) := (List.range H).map fun r => rowTokens (rowBytes pad pic W L r)

theorem tokenBytes_row (r : Nat) : tokenBytes (rowTokens (rowBytes pad pic W L r)) = encRow pad pic W L r := by
  rw [tokenBytes_rowTokens, encRow_eq]

theorem lineTokens_row (r : Nat) : LineTokens L (rowTokens (rowBytes pad pic W L r)) := by
  have h := lineTokens_rowTokens (rowBytes pad pic W L r)
  rwa [length_rowBytes] at h

theorem encodedGroups_lineExact : LineExactBy H L (encodedGroups pad pic W H L) (encodeFrame pad pic W H L) := by
  refine ⟨by simp [encodedGroups], fun g hg => ?_, ?_⟩
  · obtain ⟨r, -, rfl⟩ := List.mem_map.mp hg
    exact lineTokens_row pad pic W L r
  · rw [encodedGroups, List.flatMap_map, encodeFrame]
    exact List.flatMap_congr fun r _ => (tokenBytes_row pad pic W L r).symm

/-- DECODE of an encoded picture gives the front of each row. -/
theorem decodeFrame_encodeFrame (rest : List Byte) :
    decodeFrame W H L (encodeFrame pad pic W H L ++ rest) =
      some (rest, (List.range H).flatMap fun r => (rowBytes pad pic W L r).take (min W L)) := by
  rw [(encodedGroups_lineExact pad pic W H L).decodeFrame, encodedGroups, List.flatMap_map]
  simp only [expand_rowTokens]

/-- The columns below both `W` and `L` are pixels. -/
theorem take_rowBytes (r : Nat) :
    (rowBytes pad pic W L r).take (min W L) = (List.range (min W L)).map fun c => pic (r * W + c) := by
  rw [rowBytes, ← List.map_take, List.take_range, Nat.min_eq_left (Nat.min_le_right W L)]
  refine List.map_congr_left fun c hc => if_pos ?_
  have hlt := List.mem_range.mp hc
  omega

/-- The rows of a picture, one after the other, are the picture (20_memory.md R50). -/
theorem flatMap_rows : ((List.range H).flatMap fun r => (List.range W).map fun c => pic (r * W + c)) =
    (List.range (W * H)).map pic := by
  induction H with
  | zero => simp
  | succ H ih =>
    rw [List.range_succ, List.flatMap_append, ih, Nat.mul_succ, List.range_add, List.map_append, List.map_map,
      List.flatMap_singleton, Nat.mul_comm H W]
    rfl

end Picture

/-! ## Canonical groups (44_laws.md R173) -/

theorem one_le_toNat {m : BitVec 6} (hm : m ≠ 0) : 1 ≤ m.toNat :=
  Nat.one_le_iff_ne_zero.mpr fun h => hm (BitVec.eq_of_toNat_eq h)

/-- Full chunks and a last one are the chunks of the run they add up to. -/
theorem chunkTokens_of_chunks (v : Byte) (k : Nat) {m : BitVec 6} (hm : m ≠ 0) :
    Machine.chunkTokens v (63 * k + m.toNat) = List.replicate k (.run 63#6 v) ++ [.run m v] := by
  have hpos := one_le_toNat hm
  have hlt := m.isLt
  have hfull : Machine.fullChunks (63 * k + m.toNat) = k := by
    simp only [Machine.fullChunks, Config.maxChunk]; omega
  have hlast : Machine.lastChunk (63 * k + m.toNat) = m.toNat := by
    rw [Machine.lastChunk, hfull, Config.maxChunk, Nat.add_sub_cancel_left]
  rw [Machine.chunkTokens, hfull, hlast, BitVec.ofNat_toNat, BitVec.setWidth_eq]
  rfl

/-- A block of a canonical group is the emission of one run. -/
theorem canonicalBlock_iff (v : Byte) (ts : List Instr) :
    CanonicalBlock v ts ↔ ∃ len, 1 ≤ len ∧ ts = Machine.emitTokens v len := by
  constructor
  · rintro (⟨hv, rfl⟩ | ⟨k, m, hm, rfl, hlone⟩)
    · exact ⟨1, le_rfl, (Machine.emitTokens_lone hv).symm⟩
    · have hpos := one_le_toNat hm
      have hrun : ¬ (63 * k + m.toNat = 1 ∧ v.toNat ≤ 192) := by
        rintro ⟨hlen, hv⟩
        have hone : m = 1#6 := BitVec.eq_of_toNat_eq (by rw [BitVec.toNat_ofNat]; omega)
        have := hlone (by omega) hone
        omega
      exact ⟨63 * k + m.toNat, by omega, by rw [Machine.emitTokens_run hrun, chunkTokens_of_chunks v k hm]⟩
  · rintro ⟨len, hlen, rfl⟩
    by_cases hlone : len = 1 ∧ v.toNat ≤ 192
    · obtain ⟨rfl, hv⟩ := hlone
      exact .inl ⟨hv, Machine.emitTokens_lone hv⟩
    · rw [Machine.emitTokens_run hlone]
      obtain ⟨m, hm, hpos, -, hchunks⟩ := Machine.longRunIsCutGreedily v len hlen
      refine .inr ⟨_, m, fun h => by simp [h] at hpos, hchunks, fun hk hone => ?_⟩
      have hlen' : m.toNat = 1 := by rw [hone]; rfl
      omega

/-- Whether neighbours differ is a matter of their values only. -/
theorem neighboursDiffer_map {α β : Type} (f : Byte × α → β) (rs : List (Byte × α)) :
    neighboursDiffer (rs.map fun x => (x.1, f x)) ↔ neighboursDiffer rs := by
  induction rs with
  | nil => exact Iff.rfl
  | cons x rs ih => simp [neighboursDiffer_cons, ih, Function.comp_def]

/-- A canonical group is the emission of a cut. -/
theorem canonicalGroup_iff (ts : List Instr) :
    CanonicalGroup ts ↔
      ∃ rs : List (Byte × Nat), ts = runTokens rs ∧ (∀ x ∈ rs, 1 ≤ x.2) ∧ neighboursDiffer rs := by
  constructor
  · rintro ⟨blocks, rfl, hblocks, hdiff⟩
    have hrun (x) (hx : x ∈ blocks) :
        1 ≤ (expand x.2).length ∧ Machine.emitTokens x.1 (expand x.2).length = x.2 := by
      obtain ⟨len, hlen, hts⟩ := (canonicalBlock_iff x.1 x.2).mp (hblocks x hx)
      rw [hts, Machine.expand_emitTokens x.1 hlen, List.length_replicate]
      exact ⟨hlen, rfl⟩
    refine ⟨blocks.map fun x => (x.1, (expand x.2).length), ?_, ?_, (neighboursDiffer_map _ blocks).mpr hdiff⟩
    · rw [runTokens, List.flatMap_map]
      exact List.flatMap_congr fun x hx => (hrun x hx).2.symm
    · exact List.forall_mem_map.mpr fun x hx => (hrun x hx).1
  · rintro ⟨rs, rfl, hlen, hdiff⟩
    refine ⟨rs.map fun x => (x.1, Machine.emitTokens x.1 x.2), ?_, ?_, (neighboursDiffer_map _ rs).mpr hdiff⟩
    · rw [List.flatMap_map, runTokens]
    · exact List.forall_mem_map.mpr fun x hx => (canonicalBlock_iff _ _).mpr ⟨x.2, hlen x hx, rfl⟩

/-! ## The sizes of DECODE (44_laws.md R177, R179) -/

/-- A line that is not full and has a result took a token first. -/
theorem line_token_of_some {W L col : Nat} {s out rest out' : List Byte} (hcol : col < L)
    (h : line W L s col out = some (rest, out')) :
    ∃ i s', decodeToken s = .token i s' ∧
      line W L s' (col + weight i) (out ++ List.replicate (min (weight i) (W - col)) (tokenValue i)) =
        some (rest, out') := by
  by_cases hd : ∃ i s', decodeToken s = .token i s'
  · obtain ⟨i, s', hd⟩ := hd
    exact ⟨i, s', hd, line_token hcol hd out ▸ h⟩
  · rw [line_exhausted hcol fun i s' hi => hd ⟨i, s', hi⟩] at h
    cases h

/-- What a line from a column on reads and writes: at most two bytes of the source for each column to come, and at most a byte for
each column below `W`, exactly so many if the line reaches `W`. -/
structure Sized (W L col : Nat) (s rest out out' : List Byte) : Prop where
  /-- What is read. -/
  reads : ∃ used, s = used ++ rest ∧ used.length ≤ 2 * (L - col)
  /-- What is written. -/
  writes : out'.length ≤ out.length + (W - col)
  /-- What is written when every column below `W` is reached. -/
  fills : W ≤ L → out'.length = out.length + (W - col)

theorem line_sized {W L col : Nat} {s out rest out' : List Byte} (h : line W L s col out = some (rest, out')) :
    Sized W L col s rest out out' := by
  induction hn : L - col using Nat.strong_induction_on generalizing s col out with
  | _ n ih =>
    rcases Nat.lt_or_ge col L with hcol | hcol
    · obtain ⟨i, s', hd, hline⟩ := line_token_of_some hcol h
      obtain ⟨-, htok, rfl, -⟩ := decodedTokenSpellsItsBytes s s' i hd
      have hpos := (Machine.decodeToken_token hd).2.1
      have hlen := (length_encodeToken htok).2
      obtain ⟨⟨used, rfl, hused⟩, hwrites, hfills⟩ := ih _ (by omega) hline rfl
      rw [List.length_append, List.length_replicate] at hwrites hfills
      refine ⟨⟨encodeToken i ++ used, (List.append_assoc _ _ _).symm, ?_⟩, by omega, fun hW => ?_⟩
      · rw [List.length_append]; omega
      · rw [hfills hW]; omega
    · rw [line_full hcol] at h
      cases h
      exact ⟨⟨[], rfl, Nat.zero_le _⟩, by omega, fun hW => by omega⟩

theorem frame_sized {W L h : Nat} {s out rest out' : List Byte} (hf : frame W L h s out = some (rest, out')) :
    (∃ used, s = used ++ rest ∧ used.length ≤ 2 * L * h) ∧ out'.length ≤ out.length + W * h ∧
      (W ≤ L → out'.length = out.length + W * h) := by
  induction h generalizing s out with
  | zero => cases hf; exact ⟨⟨[], rfl, Nat.zero_le _⟩, le_rfl, fun _ => rfl⟩
  | succ h ih =>
    rw [frame_succ] at hf
    obtain ⟨⟨s₁, out₁⟩, hline, hrest⟩ := Option.bind_eq_some_iff.mp hf
    obtain ⟨⟨used, rfl, hused⟩, hwrites, hfills⟩ := line_sized hline
    obtain ⟨⟨used', rfl, hused'⟩, hwrites', hfills'⟩ := ih hrest
    simp only [Nat.mul_succ] at hwrites' hfills' ⊢
    refine ⟨⟨used ++ used', (List.append_assoc _ _ _).symm, ?_⟩, by omega, fun hW => ?_⟩
    · rw [List.length_append]; omega
    · rw [hfills' hW, hfills hW]; omega

/-! ## The obligations -/

/-- Settles O48: the front of a row is its `W` pixels, and the rows are the picture. -/
theorem roundTripRestoresThePicture : Obligations.RoundTripRestoresThePicture := by
  intro W H L pad pic rest hW
  simp only [decodeFrame_encodeFrame, take_rowBytes]
  rw [Nat.min_eq_left hW, flatMap_rows]

/-- Settles O49: the front of a row is its first `L` pixels. -/
theorem roundTripPacksNarrowLines : Obligations.RoundTripPacksNarrowLines := by
  intro W H L pad pic rest hL
  simp only [decodeFrame_encodeFrame, take_rowBytes]
  rw [Nat.min_eq_right hL.le]

/-- Settles O50: the groups are the rows' tokens, which spell `encRow` and stand for `rowbytes`. -/
theorem encodedStreamIsLineExact : Obligations.EncodedStreamIsLineExact := by
  intro W H L pad pic
  refine ⟨encodedGroups pad pic W H L, encodedGroups_lineExact pad pic W H L, ?_, ?_⟩
  · rw [encodedGroups, List.map_map]
    exact List.map_congr_left fun r _ => tokenBytes_row pad pic W L r
  · rw [encodedGroups, List.map_map]
    exact List.map_congr_left fun r _ => expand_rowTokens (rowBytes pad pic W L r)

/-- Settles O51: line by line, token by token. -/
theorem lineExactStreamDecodes : Obligations.LineExactStreamDecodes :=
  fun W _ _ _ _ rest h => h.decodeFrame W rest

/-- Settles O56: a canonical group is the emission of a cut, and the one cut of what it stands for is its runs. -/
theorem canonicalGroupsAreTheEncodings : Obligations.CanonicalGroupsAreTheEncodings := by
  intro ts
  rw [canonicalGroup_iff]
  constructor
  · rintro ⟨rs, rfl, hlen, hdiff⟩
    have hcut : IsCut (expand (runTokens rs)) rs := ⟨(expand_runTokens hlen).symm, hlen, hdiff⟩
    exact congrArg runTokens hcut.eq_runs
  · intro h
    obtain ⟨-, hlen, hdiff⟩ := isCut_runs (expand ts)
    exact ⟨runs (expand ts), h, hlen, hdiff⟩

/-- Settles O57: the size of a line-exact stream, and of one of its groups. -/
theorem encodedSizeIsBounded : Obligations.EncodedSizeIsBounded := by
  intro W H L pad pic
  refine ⟨(encodedGroups_lineExact pad pic W H L).length_le, fun r hL => ?_⟩
  have hsize := (lineTokens_row pad pic W L r).length_tokenBytes
  rw [tokenBytes_row] at hsize
  exact ⟨hsize.2 hL, hsize.1⟩

/-- Settles O58: each line reads at most two bytes for each of its columns, and writes at most one for each below `W`. -/
theorem decodedSizeIsBounded : Obligations.DecodedSizeIsBounded := by
  intro W H L s rest out h
  obtain ⟨hreads, hwrites, hfills⟩ := frame_sized h
  rw [List.length_nil, Nat.zero_add] at hwrites hfills
  exact ⟨hwrites, hfills, hreads⟩

end Sys2Proof.ListModel
end

section
/-! PROOFS. The statements on the exceptions (60_exceptions.md): how a step can stop, by a fault or a refusal, and the two ends of
the source at which DECODE raises its one exception. -/

namespace Sys2Proof.Machine

/-! ## Setup moves: refused while busy, never faulted -/

theorem whenIdle_of_busy {s : State} (h : s.stat ≠ .idle) (o : Out) : whenIdle s o = .refused .hostMoveWhileBusy := if_neg h

/-- A setup move is for `IDLE` only (10_state.md R29), and it never faults there. -/
theorem hostStep_setup_eq_whenIdle {m : HostMove} (hm : m.isSetup = true) (s : State) :
    ∃ o : Out, hostStep m s = whenIdle s o ∧ ∀ f, o ≠ .fault f := by
  cases m with
  | start | reset | hold | portAnswers | tick => cases hm
  | writePix a v =>
    refine ⟨_, rfl, fun f => ?_⟩
    split
    · nofun
    · nofun
  | _ => exact ⟨_, rfl, nofun⟩

theorem hostStep_setup_of_busy {m : HostMove} {s : State} (hm : m.isSetup = true) (hs : s.stat ≠ .idle) :
    hostStep m s = .refused .hostMoveWhileBusy := by
  obtain ⟨o, ho, -⟩ := hostStep_setup_eq_whenIdle hm s
  rw [ho, whenIdle_of_busy hs]

theorem hostStep_setup_ne_fault {m : HostMove} (hm : m.isSetup = true) (s : State) (f : Fault) :
    hostStep m s ≠ .fault f := by
  obtain ⟨o, ho, hnf⟩ := hostStep_setup_eq_whenIdle hm s
  rw [ho, whenIdle]
  split
  · exact hnf f
  · nofun

/-- A due setup move, of a busy block, is the step, and is refused (60_exceptions.md R222 (d)). -/
theorem step_setup_of_busy {s : State} {m : HostMove} {rest : List HostMove} (hs : s.stat ≠ .idle)
    (hi : s.inbox = m :: rest) (hm : m.isSetup = true) : step s = .refused .hostMoveWhileBusy :=
  (step_of_move hi).trans (hostStep_setup_of_busy hm hs)

/-! ## A launch: refused by the premise that lacks, never faulted -/

theorem execDecode_ne_fault (s : State) (f : Fault) : execDecode s ≠ .fault f := by
  unfold execDecode
  split
  · split
    · nofun
    · nofun
  · nofun

theorem execEncode_ne_fault (s : State) (f : Fault) : execEncode s ≠ .fault f := by
  unfold execEncode
  split
  · split
    · nofun
    · nofun
  · nofun

theorem exec_start_ne_fault (op : BitVec 1) (s : State) (f : Fault) : exec (decodeCommand op) s ≠ .fault f := by
  unfold decodeCommand
  split
  · exact execDecode_ne_fault s f
  · exact execEncode_ne_fault s f

theorem configured_iff (s : State) :
    configured s = true ↔ s.widthSet = true ∧ s.heightSet = true ∧ s.bplSet = true := by
  simp [configured, and_assoc]

theorem launchProblem_of_not_configured {s : State} (h : configured s = false) :
    launchProblem s = some .launchNotConfigured := if_pos h

theorem launchProblem_of_small_buffer {s : State} (hc : configured s = true) (h : s.pixSize < launchArea s) :
    launchProblem s = some .launchBufferTooSmall := by
  simp [launchProblem, bufferFits, hc, h]

theorem launchProblem_of_aliased_ports {s : State} (hc : configured s = true) (hb : launchArea s ≤ s.pixSize)
    (h : s.disjoint = false) : launchProblem s = some .launchPortsAliased := by
  simp [launchProblem, bufferFits, hc, hb, h]

theorem LaunchReady.launchProblem_eq_none {s : State} (h : LaunchReady s) : launchProblem s = none :=
  (launchProblem_none_iff s).mpr ⟨(configured_iff s).mpr ⟨h.width, h.height, h.bpl⟩, h.buffer, h.ports⟩

theorem execEncode_refused {s : State} {r : Refusal} (hs : s.stat = .idle) (h : encodeLaunchProblem s = some r) :
    execEncode s = .refused r := by
  rw [execEncode, if_pos hs, h]

/-- A premise both operations share refuses both (60_exceptions.md R222). -/
theorem exec_decode_encode_refused {s : State} {r : Refusal} (hs : s.stat = .idle) (h : launchProblem s = some r) :
    exec .decode s = .refused r ∧ exec .encode s = .refused r := by
  refine ⟨?_, execEncode_refused hs (by rw [encodeLaunchProblem, h])⟩
  rw [exec, execDecode, if_pos hs, h]

theorem inputWritten_eq_false {s : State} {a : Nat} (ha : a < launchArea s) (h : Memory.read s.pix a = none) :
    inputWritten s = false := by
  rw [← Bool.not_eq_true, inputWritten, writtenBelow_iff]
  intro hall
  simpa [h] using hall a ha

/-! ## The end of the source (60_exceptions.md R210, R216) -/

/-- Where the source, which answers, holds no whole token, DEC holds on no port: nothing is to be written. -/
theorem decodeWaits_false_of_exhausted {s t : State} {c : Cause} (hsrc : s.srcAnswers = true)
    (hf : fetchToken s = .exhausted c t) : decodeWaits s = false := by
  have hnone : holdsToken s = false := by rw [holdsToken, hf]
  simp [decodeWaits, hsrc, hnone]

/-- A fetch that comes to the end of the source raises the exception. -/
theorem step_of_exhausted {s t : State} {c : Cause} (hb : BlockMoves s) (hs : s.stat = .busyDec) (hrow : s.row < s.H.toNat)
    (hcol : s.col < s.L.toNat) (hsrc : s.srcAnswers = true)
    (hf : fetchToken { s with inbox := s.inbox.tail } = .exhausted c t) : step s = .next (raiseSourceExhausted c t) := by
  have hfree : decodeWaits s = false :=
    (decodeWaits_inbox s s.inbox.tail).symm.trans (decodeWaits_false_of_exhausted hsrc hf)
  rw [step_of_busyDec hb hs hfree, decodeStep, if_pos hrow, if_pos hcol, hf]

theorem remaining_eq_singleton {s : State} {x : Byte} (hx : s.src[s.srcPos]? = some x)
    (hl : s.src.length = s.srcPos + 1) : s.remaining = [x] := by
  obtain ⟨hlt, rfl⟩ := List.getElem?_eq_some_iff.mp hx
  rw [State.remaining, List.drop_eq_getElem_cons hlt, List.drop_eq_nil_of_le hl.le]

/-! ## From the invariant no step faults -/

theorem Inv.blockStep_ne_fault {s : State} (i : Inv s) (f : Fault) : blockStep s ≠ .fault f := by
  obtain ⟨t, ht⟩ := i.blockStep_completes
  rw [ht]
  nofun

/-- Of the host's moves only `tick` reaches the units, which go on from the invariant. -/
theorem Inv.hostStep_ne_fault {s : State} (i : Inv s) (m : HostMove) (f : Fault) : hostStep m s ≠ .fault f := by
  cases m with
  | start op => exact exec_start_ne_fault op s f
  | reset | hold | portAnswers => nofun
  | tick => exact i.blockStep_ne_fault f
  | _ => exact hostStep_setup_ne_fault rfl s f

/-! ## The obligations -/

/-- Settles O41: the block goes on from the invariant (DEC by its cursor, ENC by its written input), and no move of the host
faults. -/
theorem noStepFaults : Obligations.NoStepFaults := by
  intro s f i
  rcases hi : s.inbox with _ | ⟨m, rest⟩
  · rw [step_of_blockMoves (.inl hi)]
    exact (i.inbox _).blockStep_ne_fault f
  · rw [step_of_move hi]
    exact (i.inbox rest).hostStep_ne_fault m f

/-- Settles O11: a token is the write rule, whose first write outside the buffer faults. -/
theorem tokenOutsideTheBufferFaults : Obligations.TokenOutsideTheBufferFaults := by
  intro i s htok hpos hout
  rw [exec_token i htok]
  exact writeRule_faults _ hpos hout

/-- Settles O15: each clause names the first premise that lacks; only the input's is ENCODE's alone. -/
theorem launchWithoutAPremiseIsRefused : Obligations.LaunchWithoutAPremiseIsRefused := by
  intro s hs
  rw [← configured_iff]
  refine ⟨fun hc => ?configured, fun hc hb => ?buffer, fun hc hb hd => ?ports, fun h ⟨a, ha, hread⟩ => ?input⟩
  case configured => exact exec_decode_encode_refused hs (launchProblem_of_not_configured (Bool.eq_false_of_not_eq_true hc))
  case buffer => exact exec_decode_encode_refused hs (launchProblem_of_small_buffer hc hb)
  case ports => exact exec_decode_encode_refused hs (launchProblem_of_aliased_ports hc hb hd)
  case input =>
    have hunwritten : inputWritten s = false := inputWritten_eq_false ha hread
    exact execEncode_refused hs (by simp [encodeLaunchProblem, h.launchProblem_eq_none, hunwritten])

/-- Settles O19: the fetch ends before the token's first byte. -/
theorem endOfSourceAtATokenFetch : Obligations.EndOfSourceAtATokenFetch := by
  intro s hb hs hrow hcol hsrc hend
  have hr : s.remaining = [] := List.drop_eq_nil_of_le hend
  rw [step_of_exhausted hb hs hrow hcol hsrc (fetchToken_eofToken hr)]
  rfl

/-- Settles O20: the fetch reads the marker byte and ends before the value byte. -/
theorem endOfSourceAtAValueFetch : Obligations.EndOfSourceAtAValueFetch := by
  intro s x hb hs hrow hcol hsrc hx hm hl
  have hr : s.remaining = [x] := remaining_eq_singleton hx hl
  rw [step_of_exhausted hb hs hrow hcol hsrc (fetchToken_eofValue hr hm)]
  rfl

/-- Settles O29: each of the moves is a setup move. -/
theorem hostMoveWhileBusyIsRefused : Obligations.HostMoveWhileBusyIsRefused := by
  intro s m hs h
  rcases h with ⟨x, hi | hi | hi⟩ | ⟨k, v, hi | hi⟩ | ⟨bytes, k, hi | hi⟩ | ⟨x, hi⟩
  all_goals exact step_setup_of_busy hs hi rfl

end Sys2Proof.Machine
end

section
/-! PROOFS. The statements on reset, waiting and the host's ports (70_reset_and_hazards.md): what a due move of the host or of the
environment makes of the state. -/

namespace Sys2Proof.Machine

/-! ## Setup moves of an idle block -/

/-- A byte inside the buffer is stored (70_reset_and_hazards.md R233 (3)). -/
theorem hostWritePix_inside {s : State} {a : Nat} (hs : s.stat = .idle) (ha : a < s.pixSize) (v : Byte) :
    hostWritePix a v s = .next { s with pix := Memory.write s.pix a v } :=
  (whenIdle_of_idle hs _).trans (if_pos ha)

/-- A byte outside the buffer has no place (60_exceptions.md R222 (b)). -/
theorem hostWritePix_outside {s : State} {a : Nat} (hs : s.stat = .idle) (ha : s.pixSize ≤ a) (v : Byte) :
    hostWritePix a v s = .refused .hostWriteOutsideBuffer :=
  (whenIdle_of_idle hs _).trans (if_neg ha.not_gt)

/-! ## Reset, by field: `STATE`, the configured flags, and what is the host's -/

section
variable (s : State)

@[simp] theorem resetBlock_stat : (resetBlock s).stat = .idle := rfl
@[simp] theorem resetBlock_widthSet : (resetBlock s).widthSet = false := rfl
@[simp] theorem resetBlock_heightSet : (resetBlock s).heightSet = false := rfl
@[simp] theorem resetBlock_bplSet : (resetBlock s).bplSet = false := rfl
@[simp] theorem resetBlock_pix : (resetBlock s).pix = s.pix := rfl
@[simp] theorem resetBlock_pixSize : (resetBlock s).pixSize = s.pixSize := rfl
@[simp] theorem resetBlock_src : (resetBlock s).src = s.src := rfl
@[simp] theorem resetBlock_srcPos : (resetBlock s).srcPos = s.srcPos := rfl
@[simp] theorem resetBlock_snk : (resetBlock s).snk = s.snk := rfl
@[simp] theorem resetBlock_disjoint : (resetBlock s).disjoint = s.disjoint := rfl
@[simp] theorem resetBlock_inbox : (resetBlock s).inbox = s.inbox := rfl

end

/-- A due reset is the step, whatever `STATE` is (70_reset_and_hazards.md R232). -/
theorem step_of_reset {s : State} {m : List HostMove} (hi : s.inbox = .reset :: m) :
    step s = .next (resetBlock { s with inbox := m }) := step_of_move hi

/-! ## The obligations -/

/-- Settles O26: an idle block only uses up the move that lets it advance; a hold and the answering of a port are steps of
their own. -/
theorem blockWaitsAndHolds : Obligations.BlockWaitsAndHolds := by
  intro s
  refine ⟨fun hs hb => ?waits, fun m hi => ?holds, fun m yes hi => ?source, fun m yes hi => ?sink, fun m yes hi => ?buffer⟩
  case waits => exact (step_of_blockMoves hb).trans (blockStep_idle hs)
  case holds | source | sink | buffer => exact step_of_move hi

/-- Settles O28: each move is a setup move, which in `IDLE` does what it says; a byte of `PIX` is tested against the buffer. -/
theorem hostGivesThePorts : Obligations.HostGivesThePorts := by
  intro s m bytes k a v separate hs
  refine ⟨fun hi => ?buffer, fun hi ha => ?inside, fun hi ha => ?outside, fun hi => ?source, fun hi => ?sink, fun hi => ?wiring⟩
  case inside => exact (step_of_move hi).trans (hostWritePix_inside (s := { s with inbox := m }) hs ha v)
  case outside => exact (step_of_move hi).trans (hostWritePix_outside (s := { s with inbox := m }) hs ha v)
  case buffer | source | sink | wiring => exact (step_of_move hi).trans (whenIdle_of_idle hs _)

/-- Settles O30: the step is `resetBlock`, which sets `STATE` and the configured flags and leaves all that is the host's. -/
theorem resetBringsIdleAndTouchesNoPort : Obligations.ResetBringsIdleAndTouchesNoPort :=
  fun _ _ hi => ⟨_, step_of_reset hi, by simp⟩

end Sys2Proof.Machine
end
